-- ==== Sys2Proof/Word.lean ====
section
/-! DEFINITION. The word types of the machine (spec/00_scope.md R3, R4): bytes, 16-bit halfwords of T32 code, 32-bit
general-purpose registers and addresses, 64-bit SIMD&FP registers. Their sums wrap modulo 2^32 (R8, R101). -/

namespace Sys2Proof

/-- One byte of memory (R32). -/
abbrev Byte := BitVec 8

/-- One halfword of a T32 instruction (R60). -/
abbrev Halfword := BitVec 16

/-- A general-purpose register, an address, or a whole instruction value (`XLEN_R`, R3; R60). -/
abbrev Word := BitVec 32

/-- A SIMD&FP register by its 64-bit name (`DLEN`, R3, R26). -/
abbrev DWord := BitVec 64

end Sys2Proof
end

