-- ==== Sys2Proof/Config.lean ====
section
/-! DEFINITION. What an implementation fixes: the parameters of spec/00_scope.md R3 as plain data (State holds one value
of them and no step changes it, so a statement for every state is a statement for every implementation), and the free
values (draws) of the spec as constants without a body (92 D15; notes/assumptions/21.md). -/

namespace Sys2Proof

/-- The two Security states (60_exceptions.md R129; the list is G23, PRESUMED, notes/assumptions/33.md). -/
inductive SecurityState where
  | secure
  | nonSecure
  deriving DecidableEq, Repr, Inhabited

/-- The PE modes (60_exceptions.md R129; the page names Hyp mode only, the list is G23, PRESUMED, notes/assumptions/33.md). -/
inductive PEMode where
  | user
  | fiq
  | irq
  | supervisor
  | monitor
  | abort
  | hyp
  | undefined
  | system
  deriving DecidableEq, Repr, Inhabited

/-- What the enable check reads (10_state.md R28, R37): the registers `CPACR`, `NSACR`, `HCPTR` and (91 N6) `FPEXC`,
each whole since the spec gives no field and 32 bits wide (PRESUMED, notes/assumptions/38.md), and the Security state and PE
mode. -/
structure EnableInputs where
  cpacr : Word
  nsacr : Word
  hcptr : Word
  fpexc : Word
  security : SecurityState
  mode : PEMode
  deriving DecidableEq, Repr

/-- The three answers of `AdvSIMDCheck` (00_scope.md R16). -/
inductive EnableAnswer where
  | enabled
  | undefined
  | hypTrap
  deriving DecidableEq, Repr, Inhabited

/-- The kinds of fault that a Data Abort reports (20_memory.md R54, 60_exceptions.md R120). -/
inductive FaultKind where
  | alignment
  | translation
  | permission
  | external
  | other
  deriving DecidableEq, Repr, Inhabited

/-- `FaultInfo`: the kind and the faulting address (20_memory.md R54). -/
structure FaultInfo where
  kind : FaultKind
  addr : Word
  deriving DecidableEq, Repr, Inhabited

/-- Which address of an access a region is matched against (notes/assumptions/10.md). -/
inductive AbortUnit where
  /-- Each byte address of the access (20_memory.md R41). -/
  | byte
  /-- The element address alone (20_memory.md R54). -/
  | element
  deriving DecidableEq, Repr

/-- Which address a region reports (notes/assumptions/10.md). -/
inductive AbortReport where
  | byte
  | element
  | address (a : Word)
  deriving DecidableEq, Repr

/-- One entry of the parameter `MemFault` (20_memory.md R54) as plain data: accesses that touch the addresses `lo` to `hi` (both
included) abort with `kind`, restricted, where a filter is given, to accesses of one size, to one Security state and to one
PE mode (10_state.md R31). DESIGN CHOICE, notes/assumptions/10.md. -/
structure AbortRegion where
  lo : Nat
  hi : Nat
  unit : AbortUnit
  size : Option Nat
  security : Option SecurityState
  mode : Option PEMode
  kind : FaultKind
  report : AbortReport
  deriving DecidableEq, Repr

/-- The parameter `MemFault` (00_scope.md R3, 20_memory.md R54, 92 D5; DESIGN CHOICE of the form, notes/assumptions/10.md). -/
inductive MemFaultParam where
  /-- A list of aborting regions, first match wins; with an empty list no read aborts. -/
  | regions (rs : List AbortRegion)
  /-- Any function of the state, the address and the size: the constant `Config.memFault`, which has no body. -/
  | uninterpreted
  deriving DecidableEq, Repr

/-- The parameter `CondInput` (00_scope.md R3, 92 D10): where a T32 encoding's condition comes from. -/
inductive CondInput where
  /-- From `ITSTATE` and the flags (the default). -/
  | fromITSTATE
  /-- As a Boolean input of the step, held in the state's `condIn`. -/
  | input
  deriving DecidableEq, Repr, Inhabited

/-- The parameter `CU_d3` (40_vld3_single_lane.md R103, 92 D14): what `d3 > 31` does. -/
inductive CUd3 where
  | refuse
  | undefined
  | nop
  | unknownRegs
  | anyOf
  deriving DecidableEq, Repr, Inhabited

/-- The three behaviours that the page permits for `d3 > 31` (R103), one of which `CUd3.anyOf` draws. -/
inductive D3Behaviour where
  | undefined
  | nop
  | unknownRegs
  deriving DecidableEq, Repr, Inhabited

/-- The parameters of 00_scope.md R3 that are not control bits of the machine. -/
structure Params where
  /-- `AdvSIMDCheck` as a finite table over its inputs, first match wins (DESIGN CHOICE, notes/assumptions/8.md). -/
  enableTable : List (EnableInputs × EnableAnswer)
  /-- `AdvSIMDCheck` on inputs that the table does not list. -/
  enableDefault : EnableAnswer
  /-- `HasHyp`: whether Hyp mode exists (R130). -/
  hasHyp : Bool
  /-- `MemFault` (notes/assumptions/10.md). -/
  memFault : MemFaultParam
  condInput : CondInput
  cuD3 : CUd3
  /-- `HasDIT`: no rule reads it (R3, R143). -/
  hasDIT : Bool
  deriving DecidableEq, Repr

/-- FREE VALUE: the content that draw number `t` gives to `D[r]` where the spec says UNKNOWN (R103, R128). -/
opaque Config.freeD (t r : Nat) : DWord

/-- FREE VALUE: the content that draw number `t` gives to the base register where the spec says UNKNOWN (R103). -/
opaque Config.freeR (t : Nat) : Word

/-- FREE VALUE: which of the three permitted behaviours `CU_d3 = AnyOf` takes at draw number `t` (R103). -/
opaque Config.freeD3 (t : Nat) : D3Behaviour

/-- FREE VALUE: whether, at draw number `t`, the enable check's exception is the outcome of the registers-UNKNOWN
behaviour when Advanced SIMD is not enabled (R103, 92 D28). -/
opaque Config.freeEnableFirst (t : Nat) : Bool

/-- FREE VALUE: whether, at draw number `t`, an instruction whose condition failed and whose bit pattern stage 2 would
stop is `Skipped` (true) or takes the stage 2 outcome (false) (R105, 92 D12). -/
opaque Config.freeSkip (t : Nat) : Bool

/-- FREE VALUE: which of the aborting reads is reported at draw number `t`; used modulo their number (R124, 92 D8). -/
opaque Config.freeAbort (t : Nat) : Nat

/-- FREE VALUE: the next level of the Boolean condition input (`CondInput` = input), which the outside sets (92 D10). -/
opaque Config.freeCondIn (t : Nat) : Bool

end Sys2Proof
end

