-- ==== Sys2Proof/Syntax.lean ====
section
/-! DEFINITION. The instruction as syntax: one constructor per row of spec/opcode_table.json (six encodings by three
addressing variants, 00_scope.md R2). A constructor holds the fields of 30_encoding.md R61 that its row leaves open:
`dvd` = `D:Vd`, `rn` = `Rn`, `ia` = `index_align`, and for the register variant `rm` = `Rm`. UNDEFINED and UNPREDICTABLE
patterns are instructions too (92 D26): what they do is decided when they are executed (R72, R90). -/

namespace Sys2Proof

/-- The two instruction sets (10_state.md R25). -/
inductive InstrSet where
  | a32
  | t32
  deriving DecidableEq, Repr

/-- VLD3 (single 3-element structure to one lane), its 18 forms. -/
inductive Instr where
  | vld3x8A1Off (dvd : BitVec 5) (rn ia : BitVec 4)
  | vld3x8A1PostImm (dvd : BitVec 5) (rn ia : BitVec 4)
  | vld3x8A1PostReg (dvd : BitVec 5) (rn ia rm : BitVec 4)
  | vld3x16A2Off (dvd : BitVec 5) (rn ia : BitVec 4)
  | vld3x16A2PostImm (dvd : BitVec 5) (rn ia : BitVec 4)
  | vld3x16A2PostReg (dvd : BitVec 5) (rn ia rm : BitVec 4)
  | vld3x32A3Off (dvd : BitVec 5) (rn ia : BitVec 4)
  | vld3x32A3PostImm (dvd : BitVec 5) (rn ia : BitVec 4)
  | vld3x32A3PostReg (dvd : BitVec 5) (rn ia rm : BitVec 4)
  | vld3x8T1Off (dvd : BitVec 5) (rn ia : BitVec 4)
  | vld3x8T1PostImm (dvd : BitVec 5) (rn ia : BitVec 4)
  | vld3x8T1PostReg (dvd : BitVec 5) (rn ia rm : BitVec 4)
  | vld3x16T2Off (dvd : BitVec 5) (rn ia : BitVec 4)
  | vld3x16T2PostImm (dvd : BitVec 5) (rn ia : BitVec 4)
  | vld3x16T2PostReg (dvd : BitVec 5) (rn ia rm : BitVec 4)
  | vld3x32T3Off (dvd : BitVec 5) (rn ia : BitVec 4)
  | vld3x32T3PostImm (dvd : BitVec 5) (rn ia : BitVec 4)
  | vld3x32T3PostReg (dvd : BitVec 5) (rn ia rm : BitVec 4)
  deriving DecidableEq, Repr

end Sys2Proof
end

