-- ==== Sys2Proof/WellFormed.lean ====
section
/-! DEFINITION. Which instructions are well-formed. `encodable` says that the fields can stand in the constructor's row at
all (the register variant's `Rm` is neither 13 nor 15: 30_encoding.md R66, R78); `wellFormed` adds what `P_decodable`
of 70_reset_and_hazards.md R141 asks: no must-be-zero bit of `index_align` is set (R65), `n != 15` and `d3 <= 31`
(R67, R70, R78). Written from the encoding rules alone, without the decoder. -/

namespace Sys2Proof

/-- `Rm` can name the index register: 0 to 12 or 14 (R78). -/
def indexRegOk (rm : BitVec 4) : Bool := rm != 13 && rm != 15

/-- The fields of an 8-bit form are legal: `iii0`, single-spaced, `d + 2 <= 31`, `n != 15` (R65, R67, R70). -/
def legal8 (dvd : BitVec 5) (rn ia : BitVec 4) : Bool :=
  !ia.getLsbD 0 && rn != 15 && decide (dvd.toNat + 2 ≤ 31)

/-- The fields of a 16-bit form are legal: `iis0`, spacing from bit 1 (R65, R67, R70). -/
def legal16 (dvd : BitVec 5) (rn ia : BitVec 4) : Bool :=
  !ia.getLsbD 0 && rn != 15 && decide (dvd.toNat + (if ia.getLsbD 1 then 4 else 2) ≤ 31)

/-- The fields of a 32-bit form are legal: `is00`, spacing from bit 2 (R65, R67, R70). -/
def legal32 (dvd : BitVec 5) (rn ia : BitVec 4) : Bool :=
  !ia.getLsbD 0 && !ia.getLsbD 1 && rn != 15 && decide (dvd.toNat + (if ia.getLsbD 2 then 4 else 2) ≤ 31)

/-- The instruction's fields can be encoded in its row of the opcode table. -/
def Instr.encodable : Instr → Bool
  | .vld3x8A1Off _ _ _ => true
  | .vld3x8A1PostImm _ _ _ => true
  | .vld3x8A1PostReg _ _ _ rm => indexRegOk rm
  | .vld3x16A2Off _ _ _ => true
  | .vld3x16A2PostImm _ _ _ => true
  | .vld3x16A2PostReg _ _ _ rm => indexRegOk rm
  | .vld3x32A3Off _ _ _ => true
  | .vld3x32A3PostImm _ _ _ => true
  | .vld3x32A3PostReg _ _ _ rm => indexRegOk rm
  | .vld3x8T1Off _ _ _ => true
  | .vld3x8T1PostImm _ _ _ => true
  | .vld3x8T1PostReg _ _ _ rm => indexRegOk rm
  | .vld3x16T2Off _ _ _ => true
  | .vld3x16T2PostImm _ _ _ => true
  | .vld3x16T2PostReg _ _ _ rm => indexRegOk rm
  | .vld3x32T3Off _ _ _ => true
  | .vld3x32T3PostImm _ _ _ => true
  | .vld3x32T3PostReg _ _ _ rm => indexRegOk rm

/-- The instruction is legal: encodable, and neither UNDEFINED nor UNPREDICTABLE (R69, R70, R141). -/
def Instr.wellFormed : Instr → Bool
  | .vld3x8A1Off dvd rn ia => legal8 dvd rn ia
  | .vld3x8A1PostImm dvd rn ia => legal8 dvd rn ia
  | .vld3x8A1PostReg dvd rn ia rm => legal8 dvd rn ia && indexRegOk rm
  | .vld3x16A2Off dvd rn ia => legal16 dvd rn ia
  | .vld3x16A2PostImm dvd rn ia => legal16 dvd rn ia
  | .vld3x16A2PostReg dvd rn ia rm => legal16 dvd rn ia && indexRegOk rm
  | .vld3x32A3Off dvd rn ia => legal32 dvd rn ia
  | .vld3x32A3PostImm dvd rn ia => legal32 dvd rn ia
  | .vld3x32A3PostReg dvd rn ia rm => legal32 dvd rn ia && indexRegOk rm
  | .vld3x8T1Off dvd rn ia => legal8 dvd rn ia
  | .vld3x8T1PostImm dvd rn ia => legal8 dvd rn ia
  | .vld3x8T1PostReg dvd rn ia rm => legal8 dvd rn ia && indexRegOk rm
  | .vld3x16T2Off dvd rn ia => legal16 dvd rn ia
  | .vld3x16T2PostImm dvd rn ia => legal16 dvd rn ia
  | .vld3x16T2PostReg dvd rn ia rm => legal16 dvd rn ia && indexRegOk rm
  | .vld3x32T3Off dvd rn ia => legal32 dvd rn ia
  | .vld3x32T3PostImm dvd rn ia => legal32 dvd rn ia
  | .vld3x32T3PostReg dvd rn ia rm => legal32 dvd rn ia && indexRegOk rm

end Sys2Proof
end

