-- ==== Sys2Proof/Decode.lean ====
section
/-! DEFINITION. The decoder (30_encoding.md R60 to R73), total on any bytes and rejecting by name; after it the encoder
written from the same tables, the byte layout of an instruction (20_memory.md R43), the host's `decodeTableWord`, and the
assembler of 30_encoding.md R74 to R80. PRESUMED: every bit position (G1, G2: the diagrams are lost), notes/assumptions/1.md. -/

namespace Sys2Proof

/-- Why some bytes are not an instruction of this model. -/
inductive DecodeReject where
  /-- `size = 11`: "VLD3 (single 3-element structure to all lanes)", another instruction (R71). -/
  | otherInstruction
  /-- The 32-bit value is outside the space of R62 (A32) or R63 (T32) (R25, 92 D27). -/
  | noMatch
  /-- In T32 state the first halfword is a whole 16-bit instruction, which this page has none of (R73). -/
  | t32Narrow
  /-- Fewer bytes than an instruction has (R60). -/
  | truncated
  deriving DecidableEq, Repr

/-- The `len` bits of an instruction value from bit `lo` up (R4). -/
def field (w : Word) (lo len : Nat) : BitVec len := w.extractLsb' lo len

/-- Bits 31:24: `1111 0100` in A32 (R62), `1111 1001` in T32 (R63). -/
def opcodeByte : InstrSet → BitVec 8
  | .a32 => 0xF4#8
  | .t32 => 0xF9#8

/-- The fixed bits of R62 and R63: 31:24 by instruction set, 23 = `1`, 21:20 = `10`, 9:8 = `10`. -/
def inSpace (set : InstrSet) (w : Word) : Bool :=
  field w 24 8 == opcodeByte set && field w 23 1 == 1#1 && field w 20 2 == 2#2 && field w 8 2 == 2#2

/-- The addressing variant by `Rm` (R66): 15 Offset, 13 Post-indexed (immediate), any other Post-indexed (register). -/
def pickVariant (rm : BitVec 4) (off postImm postReg : Instr) : Instr :=
  if rm = 15#4 then off else if rm = 13#4 then postImm else postReg

/-- The encoding by instruction set and `size` (R64), which is not `11` here, and the variant by `Rm`. -/
def instrOfFields (set : InstrSet) (size : BitVec 2) (dvd : BitVec 5) (rn ia rm : BitVec 4) : Instr :=
  match set with
  | .a32 =>
    if size = 0#2 then
      pickVariant rm (.vld3x8A1Off dvd rn ia) (.vld3x8A1PostImm dvd rn ia) (.vld3x8A1PostReg dvd rn ia rm)
    else if size = 1#2 then
      pickVariant rm (.vld3x16A2Off dvd rn ia) (.vld3x16A2PostImm dvd rn ia) (.vld3x16A2PostReg dvd rn ia rm)
    else
      pickVariant rm (.vld3x32A3Off dvd rn ia) (.vld3x32A3PostImm dvd rn ia) (.vld3x32A3PostReg dvd rn ia rm)
  | .t32 =>
    if size = 0#2 then
      pickVariant rm (.vld3x8T1Off dvd rn ia) (.vld3x8T1PostImm dvd rn ia) (.vld3x8T1PostReg dvd rn ia rm)
    else if size = 1#2 then
      pickVariant rm (.vld3x16T2Off dvd rn ia) (.vld3x16T2PostImm dvd rn ia) (.vld3x16T2PostReg dvd rn ia rm)
    else
      pickVariant rm (.vld3x32T3Off dvd rn ia) (.vld3x32T3PostImm dvd rn ia) (.vld3x32T3PostReg dvd rn ia rm)

/-- The decoder on a 32-bit instruction value (A32 word, or T32 `hw1:hw2`; R60, R62 to R66, R71). -/
def decode (set : InstrSet) (w : Word) : Except DecodeReject Instr :=
  if inSpace set w then
    if field w 10 2 = 3#2 then .error .otherInstruction
    else .ok (instrOfFields set (field w 10 2) (field w 22 1 ++ field w 12 4) (field w 16 4) (field w 4 4) (field w 0 4))
  else .error .noMatch

/-- A T32 halfword whose bits 15:11 are `11101`, `11110` or `11111` starts a 32-bit instruction (R73). -/
def startsT32Wide (hw : Halfword) : Bool :=
  hw.extractLsb' 11 5 == 0b11101#5 || hw.extractLsb' 11 5 == 0b11110#5 || hw.extractLsb' 11 5 == 0b11111#5

/-- The instruction value that four bytes in rising address order make: little-endian, in T32 the first halfword in
bits 31:16 (20_memory.md R43). -/
def valueOfBytes (set : InstrSet) (b0 b1 b2 b3 : Byte) : Word :=
  match set with
  | .a32 => b3 ++ b2 ++ b1 ++ b0
  | .t32 => b1 ++ b0 ++ b3 ++ b2

/-- The decoder on the bytes from an address up (R43, R60, R73). -/
def decodeBytes (set : InstrSet) : List Byte → Except DecodeReject Instr
  | b0 :: b1 :: rest =>
    if set = .t32 ∧ startsT32Wide (b1 ++ b0) = false then .error .t32Narrow
    else
      match rest with
      | b2 :: b3 :: _ => decode set (valueOfBytes set b0 b1 b2 b3)
      | _ => .error .truncated
  | _ => .error .truncated

/-- The instruction set whose encodings a constructor belongs to (R2). -/
def Instr.instrSet : Instr → InstrSet
  | .vld3x8A1Off _ _ _ => .a32
  | .vld3x8A1PostImm _ _ _ => .a32
  | .vld3x8A1PostReg _ _ _ _ => .a32
  | .vld3x16A2Off _ _ _ => .a32
  | .vld3x16A2PostImm _ _ _ => .a32
  | .vld3x16A2PostReg _ _ _ _ => .a32
  | .vld3x32A3Off _ _ _ => .a32
  | .vld3x32A3PostImm _ _ _ => .a32
  | .vld3x32A3PostReg _ _ _ _ => .a32
  | .vld3x8T1Off _ _ _ => .t32
  | .vld3x8T1PostImm _ _ _ => .t32
  | .vld3x8T1PostReg _ _ _ _ => .t32
  | .vld3x16T2Off _ _ _ => .t32
  | .vld3x16T2PostImm _ _ _ => .t32
  | .vld3x16T2PostReg _ _ _ _ => .t32
  | .vld3x32T3Off _ _ _ => .t32
  | .vld3x32T3PostImm _ _ _ => .t32
  | .vld3x32T3PostReg _ _ _ _ => .t32

/-- The 32-bit value of the tables of R62 and R63, field by field from bit 31 down. -/
def wordOfFields (set : InstrSet) (size : BitVec 2) (dvd : BitVec 5) (rn ia rm : BitVec 4) : Word :=
  opcodeByte set ++ 1#1 ++ dvd.extractLsb' 4 1 ++ 2#2 ++ rn ++ dvd.extractLsb' 0 4 ++ size ++ 2#2 ++ ia ++ rm

/-- The encoder: the instruction value of an instruction (R62 to R66, R74). -/
def encode : Instr → Word
  | .vld3x8A1Off dvd rn ia => wordOfFields .a32 0 dvd rn ia 15
  | .vld3x8A1PostImm dvd rn ia => wordOfFields .a32 0 dvd rn ia 13
  | .vld3x8A1PostReg dvd rn ia rm => wordOfFields .a32 0 dvd rn ia rm
  | .vld3x16A2Off dvd rn ia => wordOfFields .a32 1 dvd rn ia 15
  | .vld3x16A2PostImm dvd rn ia => wordOfFields .a32 1 dvd rn ia 13
  | .vld3x16A2PostReg dvd rn ia rm => wordOfFields .a32 1 dvd rn ia rm
  | .vld3x32A3Off dvd rn ia => wordOfFields .a32 2 dvd rn ia 15
  | .vld3x32A3PostImm dvd rn ia => wordOfFields .a32 2 dvd rn ia 13
  | .vld3x32A3PostReg dvd rn ia rm => wordOfFields .a32 2 dvd rn ia rm
  | .vld3x8T1Off dvd rn ia => wordOfFields .t32 0 dvd rn ia 15
  | .vld3x8T1PostImm dvd rn ia => wordOfFields .t32 0 dvd rn ia 13
  | .vld3x8T1PostReg dvd rn ia rm => wordOfFields .t32 0 dvd rn ia rm
  | .vld3x16T2Off dvd rn ia => wordOfFields .t32 1 dvd rn ia 15
  | .vld3x16T2PostImm dvd rn ia => wordOfFields .t32 1 dvd rn ia 13
  | .vld3x16T2PostReg dvd rn ia rm => wordOfFields .t32 1 dvd rn ia rm
  | .vld3x32T3Off dvd rn ia => wordOfFields .t32 2 dvd rn ia 15
  | .vld3x32T3PostImm dvd rn ia => wordOfFields .t32 2 dvd rn ia 13
  | .vld3x32T3PostReg dvd rn ia rm => wordOfFields .t32 2 dvd rn ia rm

/-- The four bytes of an instruction value in rising address order (20_memory.md R43). -/
def bytesOfValue (set : InstrSet) (w : Word) : List Byte :=
  match set with
  | .a32 => [field w 0 8, field w 8 8, field w 16 8, field w 24 8]
  | .t32 => [field w 16 8, field w 24 8, field w 0 8, field w 8 8]

/-- The value of the low `nbits` bits of `w`, the bits above them zero, cut to the longest instruction (32 bits, R60). -/
def tableValue (nbits w : Nat) : Word := BitVec.ofNat 32 (w % 2 ^ nbits)

/-- The instruction set in which a table value is laid out: T32 where the T32 decoder takes its bytes, else A32. No value
is taken by both, since bits 31:24 differ (R62, R63). -/
def tableSet (v : Word) : InstrSet :=
  match decodeBytes .t32 (bytesOfValue .t32 v) with
  | .ok _ => .t32
  | .error _ => .a32

/-- The instruction read from a value numbered as spec/opcode_table.json numbers its rows: one 32-bit number, for T32
`hw1:hw2` with `hw1` at the lower address. -/
def decodeTableWord (nbits w : Nat) : Option Instr :=
  let v := tableValue nbits w
  match decodeBytes (tableSet v) (bytesOfValue (tableSet v) v) with
  | .ok i => some i
  | .error _ => none

/-- The condition mnemonics of `<c>` (R75, 10_state.md R23). -/
inductive AsmCond where
  | eq | ne | cs | cc | mi | pl | vs | vc | hi | ls | ge | lt | gt | le | al
  deriving DecidableEq, Repr

/-- The width qualifier `<q>`: no effect on this instruction (R75; G20). -/
inductive AsmQualifier where
  | narrow
  | wide
  deriving DecidableEq, Repr

/-- The three syntax lines (R74). -/
inductive AsmAddress where
  /-- `[<Rn>]` -/
  | offset
  /-- `[<Rn>]!` -/
  | postImm
  /-- `[<Rn>], <Rm>` -/
  | postReg (rm : Nat)
  deriving DecidableEq, Repr

/-- One line of assembler for this instruction, `VLD3<c><q>.<size> <list>, <address>` (R74 to R78): the list is
`Dd[index]`, `Dd+1[index]`, `Dd+2[index]` or, double-spaced, `Dd`, `Dd+2`, `Dd+4`. -/
structure AsmLine where
  cond : Option AsmCond
  qualifier : Option AsmQualifier
  size : Nat
  dd : Nat
  index : Nat
  doubleSpaced : Bool
  rn : Nat
  address : AsmAddress
  deriving DecidableEq, Repr

/-- `<c>` is accepted: in A32 only none or AL, in T32 any (R75). -/
def AsmLine.condOk (set : InstrSet) (l : AsmLine) : Bool :=
  match set with
  | .a32 => l.cond == none || l.cond == some .al
  | .t32 => true

/-- The address operand is accepted and gives the `Rm` field (R74, R78). -/
def AsmLine.rmField (l : AsmLine) : Option (BitVec 4) :=
  match l.address with
  | .offset => some 15
  | .postImm => some 13
  | .postReg rm => if rm ≤ 12 ∨ rm = 14 then some (BitVec.ofNat 4 rm) else none

/-- The spacing bit (R77). -/
def AsmLine.spacing (l : AsmLine) : Nat := if l.doubleSpaced then 1 else 0

/-- `<size>`, `<index>` and the spacing are accepted and give the `size` and `index_align` fields (R76, R77, R80). -/
def AsmLine.sizeFields (l : AsmLine) : Option (BitVec 2 × BitVec 4) :=
  if l.size = 8 then
    if l.index ≤ 7 ∧ l.doubleSpaced = false then some (0, BitVec.ofNat 4 (2 * l.index)) else none
  else if l.size = 16 then
    if l.index ≤ 3 then some (1, BitVec.ofNat 4 (4 * l.index + 2 * l.spacing)) else none
  else if l.size = 32 then
    if l.index ≤ 1 then some (2, BitVec.ofNat 4 (8 * l.index + 4 * l.spacing)) else none
  else none

/-- The assembler (R80): the instruction of a line, or none where R75, R77, R78 or R80 has the line rejected. -/
def assemble (set : InstrSet) (l : AsmLine) : Option Instr :=
  if l.condOk set ∧ l.rn ≤ 14 ∧ l.dd + 2 * (1 + l.spacing) ≤ 31 then
    match l.sizeFields, l.rmField with
    | some (size, ia), some rm => some (instrOfFields set size (BitVec.ofNat 5 l.dd) (BitVec.ofNat 4 l.rn) ia rm)
    | _, _ => none
  else none

end Sys2Proof
end

