-- ==== Sys2Proof/Machine/State.lean ====
section
/-! DEFINITION. The machine's state as plain data (spec/10_state.md R20 to R33, 00_scope.md R3), the state after reset, and
the reasons a step can stop. Every choice of a reset value is notes/assumptions/23.md (registers), 22 (memory), 21 (draws),
and the entries that State.reset names. -/

namespace Sys2Proof.Machine

/-- The condition flags `N`, `Z`, `C`, `V` (R23). -/
structure Flags where
  n : Bool
  z : Bool
  c : Bool
  v : Bool
  deriving DecidableEq, Repr

/-- Memory (R32, R40): the listed bytes by rising address, no listed byte equal to what an unlisted address reads as
(`Memory.wf` in Ops.lean). -/
abbrev Memory := List Host.Cell

/-- Everything the spec gives the machine; INVENTORY.md '## State' lists each field with its rule. -/
structure State where
  /-- `R[0]` to `R[14]` (R20, R21, 92 D24). -/
  regs : Vector Word 15
  /-- The address of the instruction being executed (R22). -/
  pc : Word
  /-- `D[0]` to `D[31]` (R26). -/
  dregs : Vector DWord 32
  flags : Flags
  /-- `ITSTATE` (R24). -/
  itstate : BitVec 8
  /-- The instruction-set state `T`: false is A32, true is T32 (R25). -/
  t : Bool
  /-- `CPACR` (R28); its 32 bits, and those of the three below, are PRESUMED, the family's (notes/assumptions/38.md). -/
  cpacr : Word
  /-- `NSACR` (R28); 32 bits PRESUMED (notes/assumptions/38.md). -/
  nsacr : Word
  /-- `HCPTR` (R28); 32 bits PRESUMED (notes/assumptions/38.md). -/
  hcptr : Word
  /-- `FPEXC` (R37, 91 N6); 32 bits PRESUMED (notes/assumptions/38.md). -/
  fpexc : Word
  security : SecurityState
  mode : PEMode
  /-- The DIT bit (R29). -/
  dit : Bool
  /-- The data byte-order control, the parameter `BigEndianData` (R30, R42). -/
  bigEndianData : Bool
  /-- The strict-alignment control, the parameter `StrictAlign` (R30, R44). -/
  strictAlign : Bool
  mem : Memory
  /-- The level of the Boolean condition input, read when `CondInput` is the input (92 D10). -/
  condIn : Bool
  /-- The parameters of the implementation (00_scope.md R3); no step changes them. -/
  params : Params
  /-- THE MODEL'S OWN: how many draws have been taken; indexes the free values of Config (notes/assumptions/21.md). -/
  draws : Nat
  deriving DecidableEq, Repr

/-- The causes of `Undefined` (60_exceptions.md R120). -/
inductive UndefinedCause where
  | indexAlign
  | enableCheck
  | cuD3
  deriving DecidableEq, Repr

/-- The exceptions, terminal outcomes of a step (60_exceptions.md R120, R125: no exception entry;
notes/assumptions/20.md). Safe: a run stops where the hardware goes on in a handler that no source gives. -/
inductive Fault where
  /-- `Undefined(cause)`, raised at stage 2 or 3 of any of the 18 forms (R121, R122, R103); the state is left as it was.
  Safe. -/
  | undefined (cause : UndefinedCause)
  /-- `HypTrap(AdvSIMD)`, raised at stage 3 of any of the 18 forms (R122, R130); the state is left as it was. Safe. -/
  | hypTrapAdvSIMD
  /-- `DataAbort(info)`, raised by one of the three reads (R123); `after` is the state it leaves (R128). Safe. -/
  | dataAbort (info : FaultInfo) (after : State)
  deriving DecidableEq, Repr

/-- The reasons of `Unpredictable` (00_scope.md section 5.4). -/
inductive UnpredictableReason where
  | baseIsR15
  | d3
  | itstate
  deriving DecidableEq, Repr

/-- The refusals: the model gives no behaviour. -/
inductive Refusal where
  /-- Raised by an arm of `exec` whose instruction has no meaning yet (none at present). Safe. -/
  | notModelled (mnemonic : String)
  /-- `Unpredictable(reason)`: `n == 15` (R104), `d3 > 31` when `CU_d3` is `Refuse` (R103), an inconsistent `ITSTATE` (R24).
  Raised by any of the 18 forms on those operands or states only. Safe. -/
  | unpredictable (reason : UnpredictableReason)
  /-- Raised by `step`: the bytes at `pc` are not this instruction (R71, R73, R25). Safe. -/
  | notThisInstruction (why : DecodeReject)
  /-- Raised by a meaning in the other instruction-set state, in which its encoding cannot match (R25); `step` never
  runs it so. Safe. -/
  | instrSetMismatch
  /-- Raised by `step`: `pc` is not a multiple of 4 (A32) or 2 (T32), where no instruction can stand (R22, R43). Safe. -/
  | pcMisaligned
  deriving DecidableEq, Repr

/-- The outcome of a step. -/
abbrev Outcome := Host.Outcome State Fault Refusal

/-- The parameters after reset: Advanced SIMD enabled, as the launch premise of R37 and R141 (notes/assumptions/8.md), no
aborting region (10), the condition from `ITSTATE` (5) and `CU_d3 = Refuse` (13), the spec's defaults of R3, Hyp mode (9) and
DIT (34) present. -/
def resetParams : Params where
  enableTable := []
  enableDefault := .enabled
  hasHyp := true
  memFault := .regions []
  condInput := .fromITSTATE
  cuD3 := .refuse
  hasDIT := true

/-- The machine right after reset. The spec states no reset value (R37, R140): every value here is the model's,
notes/assumptions/23.md; `bigEndianData` and `strictAlign` are the spec's parameter defaults (R3, entries 11, 12). -/
def State.reset : State where
  regs := Vector.replicate 15 0
  pc := 0
  dregs := Vector.replicate 32 0
  flags := { n := false, z := false, c := false, v := false }
  itstate := 0
  t := false
  cpacr := 0
  nsacr := 0
  hcptr := 0
  fpexc := 0
  security := .secure
  mode := .supervisor
  dit := false
  bigEndianData := false
  strictAlign := false
  mem := []
  condIn := true
  params := resetParams
  draws := 0

end Sys2Proof.Machine

namespace Sys2Proof

/-- OPEN PARAMETER, a free function: `MemFault : State -> bits(32) -> {1,2,4} -> Option FaultInfo` (20_memory.md R54, 92 D5) where
State has it `uninterpreted`. Nothing is known of it but that the same arguments give the same answer
(notes/assumptions/10.md). -/
opaque Config.memFault (s : Machine.State) (a : Word) (n : Nat) : Option FaultInfo

end Sys2Proof
end

