-- ==== Sys2Proof/Machine/Flags.lean ====
section
/-! DEFINITION. The condition of an instruction: `CondHolds`, `CurrentCond`, `ITAdvance` and `ConditionPassed`
(00_scope.md R14, 10_state.md R23, R24; PRESUMED G8, G9, notes/assumptions/4.md). The instruction writes no flag (R23). -/

namespace Sys2Proof.Machine

/-- The base test of `cond[3:1]` (the table of R23). -/
def condBase (cond : BitVec 4) (f : Flags) : Bool :=
  match (cond.extractLsb' 1 3).toNat with
  | 0 => f.z
  | 1 => f.c
  | 2 => f.n
  | 3 => f.v
  | 4 => f.c && !f.z
  | 5 => f.n == f.v
  | 6 => f.n == f.v && !f.z
  | _ => true

/-- `CondHolds`: the base test, inverted when `cond[0] == 1` and `cond != 1111` (R23). -/
def condHolds (cond : BitVec 4) (f : Flags) : Bool :=
  if cond.getLsbD 0 && cond != 15#4 then !condBase cond f else condBase cond f

/-- `CurrentCond()` in T32 state; none where `ITSTATE` is inconsistent (R24, 92 D25). -/
def currentCond (it : BitVec 8) : Option (BitVec 4) :=
  if it.extractLsb' 0 4 ≠ 0#4 then some (it.extractLsb' 4 4)
  else if it = 0#8 then some 0b1110#4
  else none

/-- `ITAdvance()` on `ITSTATE` (R24, 92 D11): bits 4:0 shift left within 5 bits, or all is cleared. -/
def itAdvance (it : BitVec 8) : BitVec 8 :=
  if it.extractLsb' 0 3 = 0#3 then 0#8 else it.extractLsb' 5 3 ++ (it.extractLsb' 0 5 <<< 1)

/-- `ConditionPassed()` for an encoding of the given instruction set (R14): A32 always; T32 from `ITSTATE` and the flags,
or the Boolean input (92 D10, notes/assumptions/5.md); none where `ITSTATE` is inconsistent. -/
def conditionPassed (set : InstrSet) (s : State) : Option Bool :=
  match set with
  | .a32 => some true
  | .t32 =>
    match s.params.condInput with
    | .fromITSTATE => (currentCond s.itstate).map fun cond => condHolds cond s.flags
    | .input => some s.condIn

end Sys2Proof.Machine
end

