-- ==== Sys2Proof/Machine/Ops.lean ====
section
/-! DEFINITION. The named operations over memory, registers and control state: bytes of memory, the read primitive
(20_memory.md R41, R42, R44, R54), the register files (10_state.md R20 to R22, R26, R27), the enable check (00_scope.md
R16), raising an exception (60_exceptions.md R125), draws, the advance of R106, and instruction fetch (R43). -/

namespace Sys2Proof.Machine

/-! ### Memory -/

/-- What an address that memory does not list reads as: 00H (DESIGN CHOICE, unsafe, notes/assumptions/22.md). -/
def unlistedByte : Byte := 0

/-- The byte at an address (R40). -/
def Memory.read : Memory → Nat → Byte
  | [], _ => unlistedByte
  | (a, b) :: m, x => if a = x then b else Memory.read m x

/-- Memory with one byte replaced, in the canonical form. Only the loading of a program writes memory: the instruction
never does (R32, R45). -/
def Memory.write : Memory → Nat → Byte → Memory
  | [], x, v => if v = unlistedByte then [] else [(x, v)]
  | (a, b) :: m, x, v =>
    if x < a then
      if v = unlistedByte then (a, b) :: m else (x, v) :: (a, b) :: m
    else if x = a then
      if v = unlistedByte then m else (x, v) :: m
    else (a, b) :: Memory.write m x v

/-- The canonical form: addresses strictly rising and below 2^32 (R40), no listed byte as an unlisted address reads. -/
def Memory.wf : Memory → Bool
  | [] => true
  | (a, b) :: m => decide (a < 2 ^ 32) && b != unlistedByte && m.all (fun cell => decide (a < cell.1)) && Memory.wf m

/-- `mem[a]` (R41). -/
def State.byte (s : State) (a : Word) : Byte := Memory.read s.mem a.toNat

/-- The state with one byte of memory replaced (loading a program). -/
def State.setByte (s : State) (a : Word) (v : Byte) : State := { s with mem := Memory.write s.mem a.toNat v }

/-- The state with bytes stored from an address up, modulo 2^32. -/
def State.storeBytes (s : State) (a : Word) : List Byte → State
  | [] => s
  | b :: bs => State.storeBytes (s.setByte a b) (a + 1) bs

/-- The byte addresses of an `n`-byte access: `(a + k) mod 2^32` for `k` in `0..n-1` (R41, R55). -/
def byteAddrs (a : Word) (n : Nat) : List Word := (List.range n).map fun k => a + BitVec.ofNat 32 k

/-- The number that bytes make with the first one least significant (R41). -/
def leNat : List Byte → Nat
  | [] => 0
  | b :: bs => b.toNat + 256 * leNat bs

/-- The value of `MemRead(a, n)` where it does not abort: little-endian (R41), or big-endian with the byte at the lowest
address most significant (R42). -/
def State.readValue (s : State) (a : Word) (n : Nat) : BitVec (8 * n) :=
  let bytes := (byteAddrs a n).map s.byte
  BitVec.ofNat (8 * n) (leNat (if s.bigEndianData then bytes.reverse else bytes))

/-- The region covers, in this state, the byte address `b` of the access of `n` bytes at `a` (R54; R31 for mode and Security
state). -/
def regionCovers (g : AbortRegion) (s : State) (a : Word) (n : Nat) (b : Word) : Bool :=
  let x := match g.unit with
    | .byte => b.toNat
    | .element => a.toNat
  decide (g.lo ≤ x) && decide (x ≤ g.hi) && g.size.all (· == n) && g.security.all (· == s.security)
    && g.mode.all (· == s.mode)

/-- What a region reports that covers the byte address `b` of an access at `a`. -/
def regionInfo (g : AbortRegion) (a b : Word) : FaultInfo where
  kind := g.kind
  addr := match g.report with
    | .byte => b
    | .element => a
    | .address x => x

/-- The fault check on the byte address `b` of the access of `n` bytes at `a`, where `MemFault` is a list of regions: the first
region that covers it (R41, R54). -/
def State.regionFault (s : State) (rs : List AbortRegion) (a : Word) (n : Nat) (b : Word) : Option FaultInfo :=
  (rs.find? fun g => regionCovers g s a n b).map fun g => regionInfo g a b

/-- `MemFault(s, a, n)` (R54): from a list of regions, the answer for the first byte of the access that one covers (R41); or
any function, which does not see the model's own count of draws (notes/assumptions/10.md). -/
def State.memFault (s : State) (a : Word) (n : Nat) : Option FaultInfo :=
  match s.params.memFault with
  | .regions rs => (byteAddrs a n).findSome? (s.regionFault rs a n)
  | .uninterpreted => Config.memFault { s with draws := 0 } a n

/-- Whether `MemRead(a, n)` aborts, and with what: first the alignment check (R44), then `MemFault` (R41, R54, R124). -/
def State.readAbort (s : State) (a : Word) (n : Nat) : Option FaultInfo :=
  if s.strictAlign && a.toNat % n != 0 then some { kind := .alignment, addr := a } else s.memFault a n

/-! ### Registers -/

/-- What `R[15]` would read as: the instruction's address plus 8 in A32 state, plus 4 in T32 state (note after R22, G12,
PRESUMED, notes/assumptions/3.md). No execution reads it: `n == 15` is refused (R104). -/
def State.r15 (s : State) : Word := if s.t then s.pc + 4 else s.pc + 8

/-- `R[i]` (R9, R20). -/
def State.r (s : State) (i : Nat) : Word := s.regs[i]?.getD s.r15

/-- `R[i] <- v` for `i` in 0 to 14 (R9); no other number is ever written (R21). -/
def State.setR (s : State) (i : Nat) (v : Word) : State := { s with regs := s.regs.setIfInBounds i v }

/-- `D[i]` for `i` in 0 to 31 (R10, R26); no other number is ever read (R70). -/
def State.d (s : State) (i : Nat) : DWord := s.dregs[i]?.getD 0

/-- `D[i] <- v` for `i` in 0 to 31 (R10); no other number is ever written. -/
def State.setD (s : State) (i : Nat) (v : DWord) : State := { s with dregs := s.dregs.setIfInBounds i v }

/-- The view `Q[i] = D[2i+1] : D[2i]` for `i` in 0 to 15 (R27; PRESUMED G7, notes/assumptions/25.md). -/
def State.q (s : State) (i : Nat) : BitVec 128 := s.d (2 * i + 1) ++ s.d (2 * i)

/-- The view `S[2i] = D[i][31:0]`, `S[2i+1] = D[i][63:32]` for `i` in 0 to 15 (R27; PRESUMED G7). -/
def State.sreg (s : State) (j : Nat) : BitVec 32 := (s.d (j / 2)).extractLsb' (32 * (j % 2)) 32

/-! ### Enable check -/

/-- What the enable check reads in this state (R28). -/
def State.enableInputs (s : State) : EnableInputs :=
  { cpacr := s.cpacr, nsacr := s.nsacr, hcptr := s.hcptr, fpexc := s.fpexc, security := s.security, mode := s.mode }

/-- `AdvSIMDCheck(s)` (R16, R28): the parameter's answer on what the check reads; without Hyp mode it is never `HypTrap`
(R130, notes/assumptions/9.md). -/
def State.advSIMDCheck (s : State) : EnableAnswer :=
  match (s.params.enableTable.lookup s.enableInputs).getD s.params.enableDefault with
  | .enabled => .enabled
  | .undefined => .undefined
  | .hypTrap => if s.params.hasHyp then .hypTrap else .undefined

/-! ### Draws, exceptions, advance -/

/-- One draw taken: the next draws are fresh. -/
def State.tick (s : State) : State := { s with draws := s.draws + 1 }

/-- Taking an exception: a terminal outcome of the step, with no exception entry (60_exceptions.md R125, 92 D6). -/
def raise (f : Fault) : Outcome := .fault f

/-- What `ITAdvance()` does to the state: `ITSTATE` advances (R24), or, where the condition is a Boolean input and
`ITSTATE` is not used (92 D10, D11), the outside sets the input anew. -/
def State.itStep (s : State) : State :=
  match s.params.condInput with
  | .fromITSTATE => { s with itstate := itAdvance s.itstate }
  | .input => { s.tick with condIn := Config.freeCondIn s.draws }

/-- Stage 7 (R90, R106): `pc <- (pc + 4) mod 2^32`, and in T32 state `ITAdvance()`. -/
def State.advance (s : State) : State :=
  if s.t then { s with pc := s.pc + 4 }.itStep else { s with pc := s.pc + 4 }

/-! ### Fetch -/

/-- The instruction set that `T` selects (R25). -/
def State.instrSet (s : State) : InstrSet := if s.t then .t32 else .a32

/-- `pc` is where an instruction can stand: a multiple of 4 in A32 state, of 2 in T32 state (R22, R43). -/
def State.pcAligned (s : State) : Bool := s.pc.toNat % (if s.t then 2 else 4) == 0

/-- The four bytes from `pc` up (R43). -/
def State.fetchBytes (s : State) : List Byte := (byteAddrs s.pc 4).map s.byte

/-- The state in which a value of the opcode table stands at `pc`, laid out and in the instruction-set state that its
instruction set asks for (R25, R43). -/
def State.placeTableWord (s : State) (nbits w : Nat) : State :=
  let v := tableValue nbits w
  State.storeBytes { s with t := tableSet v == .t32 } s.pc (bytesOfValue (tableSet v) v)

end Sys2Proof.Machine
end

