-- ==== Sys2Proof/Machine/Operands.lean ====
section
/-! DEFINITION. The operand forms: the Decode blocks of the six encodings (40_vld3_single_lane.md R91 to R96, 30_encoding.md
R65 to R68), the lane operations (00_scope.md R11, R100), and the three addressing variants' write-back (R97 to R99). -/

namespace Sys2Proof.Machine

/-- The constants that a Decode block binds (00_scope.md R15), and whether its UNDEFINED test holds (`reserved`). -/
structure Operands where
  ebytes : Nat
  index : Nat
  inc : Nat
  d : Nat
  n : Nat
  m : Nat
  reserved : Bool
  deriving DecidableEq, Repr

/-- `d2 = d + inc` (R67). -/
def Operands.d2 (c : Operands) : Nat := c.d + c.inc

/-- `d3 = d2 + inc` (R67). -/
def Operands.d3 (c : Operands) : Nat := c.d2 + c.inc

/-- `wback = (m != 15)` (R66). -/
def Operands.wback (c : Operands) : Bool := c.m != 15

/-- `register_index = (m != 15 && m != 13)` (R66). -/
def Operands.registerIndex (c : Operands) : Bool := c.m != 15 && c.m != 13

/-- The Decode block of A1 and T1 (R91, R94). -/
def decode8 (dvd : BitVec 5) (rn ia rm : BitVec 4) : Operands where
  ebytes := 1
  index := (ia.extractLsb' 1 3).toNat
  inc := 1
  d := dvd.toNat
  n := rn.toNat
  m := rm.toNat
  reserved := ia.extractLsb' 0 1 != 0#1

/-- The Decode block of A2 and T2 (R92, R95). -/
def decode16 (dvd : BitVec 5) (rn ia rm : BitVec 4) : Operands where
  ebytes := 2
  index := (ia.extractLsb' 2 2).toNat
  inc := if ia.extractLsb' 1 1 = 0#1 then 1 else 2
  d := dvd.toNat
  n := rn.toNat
  m := rm.toNat
  reserved := ia.extractLsb' 0 1 != 0#1

/-- The Decode block of A3 and T3 (R93, R96). -/
def decode32 (dvd : BitVec 5) (rn ia rm : BitVec 4) : Operands where
  ebytes := 4
  index := (ia.extractLsb' 3 1).toNat
  inc := if ia.extractLsb' 2 1 = 0#1 then 1 else 2
  d := dvd.toNat
  n := rn.toNat
  m := rm.toNat
  reserved := ia.extractLsb' 0 2 != 0#2

/-- The constants of an instruction's Decode block, by constructor (R91 to R96, R66); the statements speak of them. -/
def operandsOf : Instr → Operands
  | .vld3x8A1Off dvd rn ia => decode8 dvd rn ia 15
  | .vld3x8A1PostImm dvd rn ia => decode8 dvd rn ia 13
  | .vld3x8A1PostReg dvd rn ia rm => decode8 dvd rn ia rm
  | .vld3x16A2Off dvd rn ia => decode16 dvd rn ia 15
  | .vld3x16A2PostImm dvd rn ia => decode16 dvd rn ia 13
  | .vld3x16A2PostReg dvd rn ia rm => decode16 dvd rn ia rm
  | .vld3x32A3Off dvd rn ia => decode32 dvd rn ia 15
  | .vld3x32A3PostImm dvd rn ia => decode32 dvd rn ia 13
  | .vld3x32A3PostReg dvd rn ia rm => decode32 dvd rn ia rm
  | .vld3x8T1Off dvd rn ia => decode8 dvd rn ia 15
  | .vld3x8T1PostImm dvd rn ia => decode8 dvd rn ia 13
  | .vld3x8T1PostReg dvd rn ia rm => decode8 dvd rn ia rm
  | .vld3x16T2Off dvd rn ia => decode16 dvd rn ia 15
  | .vld3x16T2PostImm dvd rn ia => decode16 dvd rn ia 13
  | .vld3x16T2PostReg dvd rn ia rm => decode16 dvd rn ia rm
  | .vld3x32T3Off dvd rn ia => decode32 dvd rn ia 15
  | .vld3x32T3PostImm dvd rn ia => decode32 dvd rn ia 13
  | .vld3x32T3PostReg dvd rn ia rm => decode32 dvd rn ia rm

/-- `Elem[v, e, size]`: bits `(e+1)*size-1 : e*size` (R11). -/
def elem (v : DWord) (e size : Nat) : BitVec size := v.extractLsb' (e * size) size

/-- `Elem[v, e, size] = x`: those bits replaced and no other (R11), by the lane law of R100. -/
def setElem (v : DWord) (e size : Nat) (x : BitVec size) : DWord :=
  (v &&& ~~~(BitVec.ofNat 64 (2 ^ size - 1) <<< (size * e))) ||| (x.setWidth 64 <<< (size * e))

/-- The address of element `k` of the structure: `R[n] + k*ebytes` modulo 2^32 (R40, R55). -/
def elemAddr (c : Operands) (s : State) (k : Nat) : Word := s.r c.n + BitVec.ofNat 32 (k * c.ebytes)

/-- One lane write of stage 5: lane `index` of `D[r]` (R90). -/
def State.setLane (s : State) (c : Operands) (r : Nat) (x : BitVec (8 * c.ebytes)) : State :=
  s.setD r (setElem (s.d r) c.index (8 * c.ebytes) x)

/-- Stages 4 and 5 where no read aborts: the three elements of `s` in lane `index` of `D[d]`, `D[d2]`, `D[d3]` (R90). -/
def loadLanes (c : Operands) (s : State) : State :=
  let e0 := s.readValue (elemAddr c s 0) c.ebytes
  let e1 := s.readValue (elemAddr c s 1) c.ebytes
  let e2 := s.readValue (elemAddr c s 2) c.ebytes
  ((s.setLane c c.d e0).setLane c c.d2 e1).setLane c c.d3 e2

/-- Stage 6: write-back (R97, R98, R99). -/
def writeBack (c : Operands) (s : State) : State :=
  if c.wback then
    if c.registerIndex then s.setR c.n (s.r c.n + s.r c.m)
    else s.setR c.n (s.r c.n + BitVec.ofNat 32 (3 * c.ebytes))
  else s

end Sys2Proof.Machine
end

