-- ==== Sys2Proof/Machine/Vld3.lean ====
section
/-! DEFINITION. The shared operation of all 18 forms, stage by stage (40_vld3_single_lane.md R90, R103 to R106;
60_exceptions.md R120 to R128). -/

namespace Sys2Proof.Machine

/-- The exception that the enable check of stage 3 ends in, if it does (R16, R122). -/
def enableFault (s : State) : Option Fault :=
  match s.advSIMDCheck with
  | .enabled => none
  | .undefined => some (.undefined .enableCheck)
  | .hypTrap => some .hypTrapAdvSIMD

/-- UNKNOWN registers: every `D[i]` is drawn (a draw may equal the old value), and the base register when `wback` holds;
no other register changes (R103). -/
def drawnRegs (c : Operands) (s : State) : State :=
  let drawn := { s with dregs := Vector.ofFn fun r : Fin 32 => Config.freeD s.draws r.val }
  if c.wback then drawn.setR c.n (Config.freeR s.draws) else drawn

/-- The third behaviour permitted for `d3 > 31`: registers UNKNOWN, and nothing else changes but the advance (R103). -/
def unknownRegs (c : Operands) (s : State) : State := (drawnRegs c s).tick.advance

/-- One of the three behaviours permitted for `d3 > 31` (R103); under the third the enable check's exception is admitted
too (92 D28, notes/assumptions/14.md). DESIGN CHOICE: it is admitted also where the condition failed and this is the stage 2
outcome taken, although R14 and the last sentence of R105 can be read to rule it out there (notes/assumptions/37.md). -/
def doD3 (b : D3Behaviour) (c : Operands) (s : State) : Outcome :=
  match b with
  | .undefined => raise (.undefined .cuD3)
  | .nop => .next s.advance
  | .unknownRegs =>
    match enableFault s with
    | none => .next (unknownRegs c s)
    | some f => if Config.freeEnableFirst s.draws then raise f else .next (unknownRegs c s)

/-- `d3 > 31`: the behaviour chosen by `CU_d3` (R103, notes/assumptions/13.md). -/
def d3Above31 (c : Operands) (s : State) : Outcome :=
  match s.params.cuD3 with
  | .refuse => .refused (.unpredictable .d3)
  | .undefined => doD3 .undefined c s
  | .nop => doD3 .nop c s
  | .unknownRegs => doD3 .unknownRegs c s
  | .anyOf => doD3 (Config.freeD3 s.draws) c s.tick

/-- Stage 2, the decode tests in the order of R72: none where the instruction goes on to stage 3. -/
def decodeTests (c : Operands) (s : State) : Option Outcome :=
  if c.reserved then some (raise (.undefined .indexAlign))
  else if c.n = 15 then some (.refused (.unpredictable .baseIsR15))
  else if 31 < c.d3 then some (d3Above31 c s)
  else none

/-- The aborts among the three reads of stage 4, which no order is fixed for (R47, R54, R123). -/
def readAborts (c : Operands) (s : State) : List FaultInfo :=
  [0, 1, 2].filterMap fun k => s.readAbort (elemAddr c s k) c.ebytes

/-- The state that a Data Abort leaves: the three destinations drawn, nothing else changed (R128). -/
def abortState (c : Operands) (s : State) : State :=
  (((s.setD c.d (Config.freeD s.draws c.d)).setD c.d2 (Config.freeD s.draws c.d2)).setD c.d3
    (Config.freeD s.draws c.d3)).tick

/-- The Data Abort of stage 4: any one of the aborting reads is reported (R124). -/
def raiseDataAbort (first : FaultInfo) (others : List FaultInfo) (c : Operands) (s : State) : Outcome :=
  raise (.dataAbort ((first :: others).getD (Config.freeAbort s.draws % (others.length + 1)) first) (abortState c s))

/-- Stages 5, 6 and 7 where no read aborts: lane writes, write-back, advance (R90). -/
def completed (c : Operands) (s : State) : State := (writeBack c (loadLanes c s)).advance

/-- Stages 4 to 7 (R90). -/
def readAndWrite (c : Operands) (s : State) : Outcome :=
  match readAborts c s with
  | [] => .next (completed c s)
  | i :: is => raiseDataAbort i is c s

/-- Stages 3 to 7 (R90). -/
def checkReadWrite (c : Operands) (s : State) : Outcome :=
  match enableFault s with
  | some f => raise f
  | none => readAndWrite c s

/-- Stages 2 to 7, the condition having passed (R90). -/
def conditionHeld (c : Operands) (s : State) : Outcome :=
  match decodeTests c s with
  | some o => o
  | none => checkReadWrite c s

/-- The condition failed (R105): `Skipped`; and for a bit pattern that stage 2 stops, `Skipped` or the stage 2 outcome by a
draw (92 D12, notes/assumptions/16.md). DESIGN CHOICE: both are admitted where Advanced SIMD is not enabled too, and where
`d3 > 31` takes the registers-UNKNOWN behaviour the stage 2 outcome can then be the enable check's exception (R72, D12, D28
against R14 and the last sentence of R105; notes/assumptions/37.md). -/
def conditionFailed (c : Operands) (s : State) : Outcome :=
  match decodeTests c s.tick with
  | none => .next s.advance
  | some o => if Config.freeSkip s.draws then .next s.tick.advance else o

/-- One execution of a form of the given instruction set with the constants of its Decode block (R90); an encoding of the
other instruction set cannot match (R25, notes/assumptions/29.md). -/
def execute (set : InstrSet) (c : Operands) (s : State) : Outcome :=
  if s.instrSet = set then
    match conditionPassed set s with
    | none => .refused (.unpredictable .itstate)
    | some true => conditionHeld c s
    | some false => conditionFailed c s
  else .refused .instrSetMismatch

end Sys2Proof.Machine
end

