-- ==== Sys2Proof/Machine/A32.lean ====
section
/-! DEFINITION. The meanings of the nine A32 forms: each is the shared operation (40_vld3_single_lane.md R90) on the constants
of its own Decode block and its own `Rm` (30_encoding.md R66). -/

namespace Sys2Proof.Machine

/-- VLD3.8_A1_OFF: encoding A1 (R91), `[<Rn>]` (R97). -/
def execVld3x8A1Off (dvd : BitVec 5) (rn ia : BitVec 4) (s : State) : Outcome :=
  execute .a32 (decode8 dvd rn ia 15) s

/-- VLD3.8_A1_POST_IMM: encoding A1 (R91), `[<Rn>]!` (R98). -/
def execVld3x8A1PostImm (dvd : BitVec 5) (rn ia : BitVec 4) (s : State) : Outcome :=
  execute .a32 (decode8 dvd rn ia 13) s

/-- VLD3.8_A1_POST_REG: encoding A1 (R91), `[<Rn>], <Rm>` (R99). -/
def execVld3x8A1PostReg (dvd : BitVec 5) (rn ia rm : BitVec 4) (s : State) : Outcome :=
  execute .a32 (decode8 dvd rn ia rm) s

/-- VLD3.16_A2_OFF: encoding A2 (R92), `[<Rn>]` (R97). -/
def execVld3x16A2Off (dvd : BitVec 5) (rn ia : BitVec 4) (s : State) : Outcome :=
  execute .a32 (decode16 dvd rn ia 15) s

/-- VLD3.16_A2_POST_IMM: encoding A2 (R92), `[<Rn>]!` (R98). -/
def execVld3x16A2PostImm (dvd : BitVec 5) (rn ia : BitVec 4) (s : State) : Outcome :=
  execute .a32 (decode16 dvd rn ia 13) s

/-- VLD3.16_A2_POST_REG: encoding A2 (R92), `[<Rn>], <Rm>` (R99). -/
def execVld3x16A2PostReg (dvd : BitVec 5) (rn ia rm : BitVec 4) (s : State) : Outcome :=
  execute .a32 (decode16 dvd rn ia rm) s

/-- VLD3.32_A3_OFF: encoding A3 (R93), `[<Rn>]` (R97). -/
def execVld3x32A3Off (dvd : BitVec 5) (rn ia : BitVec 4) (s : State) : Outcome :=
  execute .a32 (decode32 dvd rn ia 15) s

/-- VLD3.32_A3_POST_IMM: encoding A3 (R93), `[<Rn>]!` (R98). -/
def execVld3x32A3PostImm (dvd : BitVec 5) (rn ia : BitVec 4) (s : State) : Outcome :=
  execute .a32 (decode32 dvd rn ia 13) s

/-- VLD3.32_A3_POST_REG: encoding A3 (R93), `[<Rn>], <Rm>` (R99). -/
def execVld3x32A3PostReg (dvd : BitVec 5) (rn ia rm : BitVec 4) (s : State) : Outcome :=
  execute .a32 (decode32 dvd rn ia rm) s

end Sys2Proof.Machine
end

