-- ==== Sys2Proof/Machine/T32.lean ====
section
/-! DEFINITION. The meanings of the nine T32 forms: each is the shared operation (40_vld3_single_lane.md R90) on the constants
of its own Decode block and its own `Rm` (30_encoding.md R66). -/

namespace Sys2Proof.Machine

/-- VLD3.8_T1_OFF: encoding T1 (R94), `[<Rn>]` (R97). -/
def execVld3x8T1Off (dvd : BitVec 5) (rn ia : BitVec 4) (s : State) : Outcome :=
  execute .t32 (decode8 dvd rn ia 15) s

/-- VLD3.8_T1_POST_IMM: encoding T1 (R94), `[<Rn>]!` (R98). -/
def execVld3x8T1PostImm (dvd : BitVec 5) (rn ia : BitVec 4) (s : State) : Outcome :=
  execute .t32 (decode8 dvd rn ia 13) s

/-- VLD3.8_T1_POST_REG: encoding T1 (R94), `[<Rn>], <Rm>` (R99). -/
def execVld3x8T1PostReg (dvd : BitVec 5) (rn ia rm : BitVec 4) (s : State) : Outcome :=
  execute .t32 (decode8 dvd rn ia rm) s

/-- VLD3.16_T2_OFF: encoding T2 (R95), `[<Rn>]` (R97). -/
def execVld3x16T2Off (dvd : BitVec 5) (rn ia : BitVec 4) (s : State) : Outcome :=
  execute .t32 (decode16 dvd rn ia 15) s

/-- VLD3.16_T2_POST_IMM: encoding T2 (R95), `[<Rn>]!` (R98). -/
def execVld3x16T2PostImm (dvd : BitVec 5) (rn ia : BitVec 4) (s : State) : Outcome :=
  execute .t32 (decode16 dvd rn ia 13) s

/-- VLD3.16_T2_POST_REG: encoding T2 (R95), `[<Rn>], <Rm>` (R99). -/
def execVld3x16T2PostReg (dvd : BitVec 5) (rn ia rm : BitVec 4) (s : State) : Outcome :=
  execute .t32 (decode16 dvd rn ia rm) s

/-- VLD3.32_T3_OFF: encoding T3 (R96), `[<Rn>]` (R97). -/
def execVld3x32T3Off (dvd : BitVec 5) (rn ia : BitVec 4) (s : State) : Outcome :=
  execute .t32 (decode32 dvd rn ia 15) s

/-- VLD3.32_T3_POST_IMM: encoding T3 (R96), `[<Rn>]!` (R98). -/
def execVld3x32T3PostImm (dvd : BitVec 5) (rn ia : BitVec 4) (s : State) : Outcome :=
  execute .t32 (decode32 dvd rn ia 13) s

/-- VLD3.32_T3_POST_REG: encoding T3 (R96), `[<Rn>], <Rm>` (R99). -/
def execVld3x32T3PostReg (dvd : BitVec 5) (rn ia rm : BitVec 4) (s : State) : Outcome :=
  execute .t32 (decode32 dvd rn ia rm) s

end Sys2Proof.Machine
end

