-- ==== Sys2Proof/Machine/Dispatch.lean ====
section
/-! DEFINITION. The dispatch: one arm per constructor of Instr, each a direct call of that form's meaning. -/

namespace Sys2Proof.Machine

def exec (i : Instr) (s : State) : Host.Outcome State Fault Refusal :=
  match i with
  | .vld3x8A1Off dvd rn ia => Sys2Proof.Machine.execVld3x8A1Off dvd rn ia s
  | .vld3x8A1PostImm dvd rn ia => Sys2Proof.Machine.execVld3x8A1PostImm dvd rn ia s
  | .vld3x8A1PostReg dvd rn ia rm => Sys2Proof.Machine.execVld3x8A1PostReg dvd rn ia rm s
  | .vld3x16A2Off dvd rn ia => Sys2Proof.Machine.execVld3x16A2Off dvd rn ia s
  | .vld3x16A2PostImm dvd rn ia => Sys2Proof.Machine.execVld3x16A2PostImm dvd rn ia s
  | .vld3x16A2PostReg dvd rn ia rm => Sys2Proof.Machine.execVld3x16A2PostReg dvd rn ia rm s
  | .vld3x32A3Off dvd rn ia => Sys2Proof.Machine.execVld3x32A3Off dvd rn ia s
  | .vld3x32A3PostImm dvd rn ia => Sys2Proof.Machine.execVld3x32A3PostImm dvd rn ia s
  | .vld3x32A3PostReg dvd rn ia rm => Sys2Proof.Machine.execVld3x32A3PostReg dvd rn ia rm s
  | .vld3x8T1Off dvd rn ia => Sys2Proof.Machine.execVld3x8T1Off dvd rn ia s
  | .vld3x8T1PostImm dvd rn ia => Sys2Proof.Machine.execVld3x8T1PostImm dvd rn ia s
  | .vld3x8T1PostReg dvd rn ia rm => Sys2Proof.Machine.execVld3x8T1PostReg dvd rn ia rm s
  | .vld3x16T2Off dvd rn ia => Sys2Proof.Machine.execVld3x16T2Off dvd rn ia s
  | .vld3x16T2PostImm dvd rn ia => Sys2Proof.Machine.execVld3x16T2PostImm dvd rn ia s
  | .vld3x16T2PostReg dvd rn ia rm => Sys2Proof.Machine.execVld3x16T2PostReg dvd rn ia rm s
  | .vld3x32T3Off dvd rn ia => Sys2Proof.Machine.execVld3x32T3Off dvd rn ia s
  | .vld3x32T3PostImm dvd rn ia => Sys2Proof.Machine.execVld3x32T3PostImm dvd rn ia s
  | .vld3x32T3PostReg dvd rn ia rm => Sys2Proof.Machine.execVld3x32T3PostReg dvd rn ia rm s

end Sys2Proof.Machine
end

