-- ==== Sys2Proof/Machine/Step.lean ====
section
/-! DEFINITION. One step: fetch at `pc` in the instruction set that `T` selects, decode, execute (10_state.md R22, R25;
20_memory.md R43; 30_encoding.md R71, R73), and the placing of one instruction at `pc` for the host. -/

namespace Sys2Proof.Machine

/-- Execute the instruction at `pc` (R127: one whole instruction). -/
def step (s : State) : Host.Outcome State Fault Refusal :=
  if s.pcAligned then
    match decodeBytes s.instrSet s.fetchBytes with
    | .ok i => exec i s
    | .error why => .refused (.notThisInstruction why)
  else .refused .pcMisaligned

/-- The state with an instruction of the opcode table, `w` in the table's numbering, standing at `pc`, and `T` as its
instruction set asks; nothing else changes. It stands for loading a program (notes/assumptions/28.md). -/
def State.withFetchWord (s : State) (nbits w : Nat) : State := s.placeTableWord nbits w

end Sys2Proof.Machine
end

