-- ==== Sys2Proof/Safety.lean ====
section
/-! DEFINITION. What counts as a safe run, in the terms the statements use: the named launch premises of
70_reset_and_hazards.md R141, the invariant that every step keeps, the frames of 10_state.md R34 to R36 and 60_exceptions.md
R125, and what the spec says is loaded (R41, R42, R100), written from the rules and not from the meanings. -/

namespace Sys2Proof.Machine

/-! ### Launch premises (R141) -/

/-- `P_readable`: `MemFault` answers none for the three element addresses and, when `StrictAlign`, the base is a multiple of
the element size (R141). -/
def PReadable (c : Operands) (s : State) : Prop :=
  (∀ k < 3, s.memFault (elemAddr c s k) c.ebytes = none) ∧
    (s.strictAlign = true → (s.r c.n).toNat % c.ebytes = 0)

/-- All the premises under which an execution completes (R141): `P_decodable`, `P_mode`, the condition passes (which
contains `P_cond`), `P_enabled`, `P_readable`. `P_regs` holds in every state. -/
structure Ready (i : Instr) (s : State) : Prop where
  decodable : i.wellFormed = true
  mode : s.instrSet = i.instrSet
  condition : conditionPassed i.instrSet s = some true
  enabled : s.advSIMDCheck = .enabled
  readable : PReadable (operandsOf i) s

/-- `index_align` of an instruction (R61). -/
def indexAlignOf : Instr → BitVec 4
  | .vld3x8A1Off _ _ ia => ia
  | .vld3x8A1PostImm _ _ ia => ia
  | .vld3x8A1PostReg _ _ ia _ => ia
  | .vld3x16A2Off _ _ ia => ia
  | .vld3x16A2PostImm _ _ ia => ia
  | .vld3x16A2PostReg _ _ ia _ => ia
  | .vld3x32A3Off _ _ ia => ia
  | .vld3x32A3PostImm _ _ ia => ia
  | .vld3x32A3PostReg _ _ ia _ => ia
  | .vld3x8T1Off _ _ ia => ia
  | .vld3x8T1PostImm _ _ ia => ia
  | .vld3x8T1PostReg _ _ ia _ => ia
  | .vld3x16T2Off _ _ ia => ia
  | .vld3x16T2PostImm _ _ ia => ia
  | .vld3x16T2PostReg _ _ ia _ => ia
  | .vld3x32T3Off _ _ ia => ia
  | .vld3x32T3PostImm _ _ ia => ia
  | .vld3x32T3PostReg _ _ ia _ => ia

/-! ### What is loaded -/

/-- The halfword at an address, by the data byte order (R41, R42). -/
def halfAt (s : State) (a : Word) : BitVec 16 :=
  if s.bigEndianData then s.byte a ++ s.byte (a + 1) else s.byte (a + 1) ++ s.byte a

/-- The word at an address, by the data byte order (R41, R42). -/
def wordAt (s : State) (a : Word) : BitVec 32 :=
  if s.bigEndianData then s.byte a ++ s.byte (a + 1) ++ s.byte (a + 2) ++ s.byte (a + 3)
  else s.byte (a + 3) ++ s.byte (a + 2) ++ s.byte (a + 1) ++ s.byte a

/-- `new` is `old` with lane `index` replaced by `x` and every other bit kept (R11, R100). -/
def LaneLoaded {w : Nat} (old new : DWord) (index : Nat) (x : BitVec w) : Prop :=
  ∀ j < 64, new.getLsbD j = if w * index ≤ j ∧ j < w * index + w then x.getLsbD (j - w * index) else old.getLsbD j

/-- One structure of three elements of `w` bits stands in lane `index` of three registers spaced by `inc`, element `k` in the
register `d + k*inc` (R90 stages 4 and 5). -/
def StructureLoaded {w : Nat} (s t : State) (d inc index : Nat) (element : Nat → BitVec w) : Prop :=
  ∀ k < 3, LaneLoaded (s.d (d + k * inc)) (t.d (d + k * inc)) index (element k)

/-! ### Frames -/

/-- The control state that no outcome writes (R23, R25, R36), with the parameters. -/
def ControlKept (s t : State) : Prop :=
  t.flags = s.flags ∧ t.t = s.t ∧ t.cpacr = s.cpacr ∧ t.nsacr = s.nsacr ∧ t.hcptr = s.hcptr ∧ t.fpexc = s.fpexc ∧
    t.security = s.security ∧ t.mode = s.mode ∧ t.dit = s.dit ∧ t.bigEndianData = s.bigEndianData ∧
    t.strictAlign = s.strictAlign ∧ t.params = s.params

/-- Every byte of memory reads as before (R32). -/
def MemoryKept (s t : State) : Prop := ∀ a, t.byte a = s.byte a

/-- `t` is `s` advanced past the instruction and otherwise unchanged (R35, R106): `pc`, and in T32 state `ITSTATE`, or the
condition input where the condition comes from there (92 D10), and the model's count of draws. -/
def OnlyAdvanced (s t : State) : Prop :=
  ∃ b n, t = { s with pc := s.pc + 4, itstate := t.itstate, condIn := b, draws := n } ∧
    t.itstate = (if s.t = true ∧ s.params.condInput = .fromITSTATE then itAdvance s.itstate else s.itstate) ∧
    (s.t = false ∨ s.params.condInput = .fromITSTATE → b = s.condIn)

/-- Registers UNKNOWN (R103): `t` is `s` advanced, with any `D` registers changed, and the base register too when `wback`
holds; no other general-purpose register, no memory and no control state changed. -/
def RegistersUnknown (c : Operands) (s t : State) : Prop :=
  t.pc = s.pc + 4 ∧ (∀ k < 15, (k ≠ c.n ∨ c.m = 15) → t.r k = s.r k) ∧ MemoryKept s t ∧ ControlKept s t ∧
    t.itstate = (if s.t = true ∧ s.params.condInput = .fromITSTATE then itAdvance s.itstate else s.itstate)

/-- The state that a fault leaves: the one before the instruction, but for a Data Abort's own (R125, R128). -/
def stateAfter (f : Fault) (s : State) : State :=
  match f with
  | .undefined _ => s
  | .hypTrapAdvSIMD => s
  | .dataAbort _ after => after

/-- What `d3 > 31` may do under one setting of `CU_d3` (R103, 92 D28). -/
def AdmittedAbove31 (setting : CUd3) (c : Operands) (s : State) (o : Outcome) : Prop :=
  match setting with
  | .refuse => o = .refused (.unpredictable .d3)
  | .undefined => o = .fault (.undefined .cuD3)
  | .nop => ∃ t, o = .next t ∧ OnlyAdvanced s t
  | .unknownRegs =>
    (∃ t, o = .next t ∧ RegistersUnknown c s t) ∨
      (s.advSIMDCheck = .undefined ∧ o = .fault (.undefined .enableCheck)) ∨
      (s.advSIMDCheck = .hypTrap ∧ o = .fault .hypTrapAdvSIMD)
  | .anyOf =>
    o = .fault (.undefined .cuD3) ∨ (∃ t, o = .next t ∧ OnlyAdvanced s t) ∨
      (∃ t, o = .next t ∧ RegistersUnknown c s t) ∨
      (s.advSIMDCheck = .undefined ∧ o = .fault (.undefined .enableCheck)) ∨
      (s.advSIMDCheck = .hypTrap ∧ o = .fault .hypTrapAdvSIMD)

/-- The three reads of a structure abort alike in two states. It holds of itself where `MemFault` is a list of regions and the
states agree on Security state, PE mode, parameters and alignment control; an uninterpreted `MemFault` sees the whole state
(20_memory.md R54; notes/assumptions/10.md), and then it says so. -/
def ReadsAbortAlike (c : Operands) (s t : State) : Prop :=
  s.params.memFault ≠ .uninterpreted ∨
    ∀ k < 3, t.readAbort (elemAddr c s k) c.ebytes = s.readAbort (elemAddr c s k) c.ebytes

/-- An outcome with a change made to the state in it. -/
def mapOutcome (g : State → State) : Outcome → Outcome
  | .next t => .next (g t)
  | .fault (.undefined cause) => .fault (.undefined cause)
  | .fault .hypTrapAdvSIMD => .fault .hypTrapAdvSIMD
  | .fault (.dataAbort info after) => .fault (.dataAbort info (g after))
  | .refused r => .refused r

/-! ### The invariant -/

/-- What every step keeps: `pc` is where an instruction can stand (R22, R43), memory is in its canonical form, and `ITSTATE`
is consistent (R24). -/
structure State.Inv (s : State) : Prop where
  pc : s.pcAligned = true
  mem : Memory.wf s.mem = true
  itstate : currentCond s.itstate ≠ none

end Sys2Proof.Machine
end

