-- ==== Sys2Proof/Certificates/Slice0/Obligations.lean ====
section
/-! DEFINITION. The statements for the provers, listed in OBLIGATIONS.json. Each docstring names the rules of spec/ it
formalises; a clause that rests on a choice of the model names its log entry. -/

open Sys2Proof Sys2Proof.Machine

/-- 30_encoding.md R60 to R66 and 20_memory.md R43: no bit of an encoding is dropped. The bit positions are PRESUMED (G1, G2),
notes/assumptions/1.md. -/
def Obligations.EncodedInstrDecodesToItself : Prop :=
  ∀ i : Instr, i.encodable = true →
    decode i.instrSet (encode i) = .ok i ∧
      decodeBytes i.instrSet (bytesOfValue i.instrSet (encode i)) = .ok i

/-- 30_encoding.md R62 to R66 read from the word's side (positions PRESUMED, notes/assumptions/1.md). -/
def Obligations.DecodedWordIsItsEncoding : Prop :=
  ∀ (set : InstrSet) (w : Word) (i : Instr), decode set w = .ok i →
    encode i = w ∧ i.instrSet = set ∧ i.encodable = true

/-- 30_encoding.md R64 to R67 and the Decode blocks of 40_vld3_single_lane.md R91 to R96, on the bits of the word (positions
PRESUMED, notes/assumptions/1.md). -/
def Obligations.DecodedFieldsAreTheWordsFields : Prop :=
  ∀ (set : InstrSet) (w : Word) (i : Instr), decode set w = .ok i →
    let c := operandsOf i
    let size := w.toNat / 2 ^ 10 % 4
    let ia := w.toNat / 2 ^ 4 % 16
    size < 3 ∧ c.d = 16 * (w.toNat / 2 ^ 22 % 2) + w.toNat / 2 ^ 12 % 16 ∧ c.n = w.toNat / 2 ^ 16 % 16 ∧
      c.m = w.toNat % 16 ∧ c.ebytes = 2 ^ size ∧
      c.index = ia / 2 ^ (size + 1) ∧
      c.inc = (if size = 0 then 1 else if ia / 2 ^ size % 2 = 0 then 1 else 2) ∧
      (c.reserved = true ↔ ia % (if size = 2 then 4 else 2) ≠ 0)

/-- One word per encoding, bit by bit: V1 (A1), V5 (A2), V8 (A3), V11 (T1), V12 (T2), V14 (T3) of 95_test_vectors.md. -/
def Obligations.SpecWordsDecode : Prop :=
  decode .a32 0b11110100101000000000001000001111#32 = .ok (.vld3x8A1Off 0 0 0) ∧
    decode .a32 0b11110100111000000000011001100010#32 = .ok (.vld3x16A2PostReg 16 0 0b0110 2) ∧
    decode .a32 0b11110100111000010001101011001101#32 = .ok (.vld3x32A3PostImm 17 1 0b1100) ∧
    decode .t32 0b11111001111011001101001010101110#32 = .ok (.vld3x8T1PostReg 29 12 0b1010 14) ∧
    decode .t32 0b11111001101011010100011011001101#32 = .ok (.vld3x16T2PostImm 4 13 0b1100) ∧
    decode .t32 0b11111001111000111101101000000011#32 = .ok (.vld3x32T3PostReg 29 3 0 3)

/-- 30_encoding.md R71: 'the decoder answers `OtherInstruction` and the model refuses it by name' (where the space lies:
PRESUMED, notes/assumptions/1.md). That a step refuses it before the condition is looked at, so also in T32 state with a
failing condition (R90, R72 and R124 put the condition first), is the model's, DEDUCED, notes/assumptions/35.md. -/
def Obligations.Size11IsRefusedByName : Prop :=
  (∀ w : Word, w &&& 0xFFB00F00#32 = 0xF4A00E00#32 → decode .a32 w = .error .otherInstruction) ∧
    (∀ w : Word, w &&& 0xFFB00F00#32 = 0xF9A00E00#32 → decode .t32 w = .error .otherInstruction) ∧
    ∀ (s : State) (w : Word), s.pcAligned = true → s.fetchBytes = bytesOfValue s.instrSet w →
      w &&& 0xFFB00F00#32 = (if s.t then 0xF9A00E00#32 else 0xF4A00E00#32) →
      step s = .refused (.notThisInstruction .otherInstruction)

/-- 30_encoding.md R62, R63, 10_state.md R25, 92 D27 (positions PRESUMED, notes/assumptions/1.md). -/
def Obligations.OutsideTheSpaceNothingMatches : Prop :=
  (∀ w : Word, w &&& 0xFFB00300#32 ≠ 0xF4A00200#32 → decode .a32 w = .error .noMatch) ∧
    ∀ w : Word, w &&& 0xFFB00300#32 ≠ 0xF9A00200#32 → decode .t32 w = .error .noMatch

/-- 30_encoding.md R74, R76 to R78, R80. -/
def Obligations.AssembledLineMeansItsOperands : Prop :=
  ∀ (set : InstrSet) (l : AsmLine) (i : Instr), assemble set l = some i →
    let c := operandsOf i
    i.wellFormed = true ∧ i.instrSet = set ∧ 8 * c.ebytes = l.size ∧ c.index = l.index ∧ c.d = l.dd ∧
      c.inc = (if l.doubleSpaced then 2 else 1) ∧ c.n = l.rn ∧
      (l.address = .offset → c.m = 15) ∧ (l.address = .postImm → c.m = 13) ∧
      ∀ rm, l.address = .postReg rm → c.m = rm ∧ rm ≠ 13 ∧ rm ≠ 15

/-- 30_encoding.md R75 (A32 accepts no condition but AL), R76, R77 (index ranges, no double spacing with size 8), R78, R80 (what
an assembler must reject). -/
def Obligations.AssemblerAcceptsExactlyTheSyntax : Prop :=
  ∀ (set : InstrSet) (l : AsmLine),
    (assemble set l).isSome = true ↔
      (set = .a32 → l.cond = none ∨ l.cond = some .al) ∧
        ((l.size = 8 ∧ l.index ≤ 7 ∧ l.doubleSpaced = false) ∨ (l.size = 16 ∧ l.index ≤ 3) ∨
          (l.size = 32 ∧ l.index ≤ 1)) ∧
        l.dd + 2 * (if l.doubleSpaced then 2 else 1) ≤ 31 ∧ l.rn ≤ 14 ∧
        ∀ rm, l.address = .postReg rm → rm ≤ 12 ∨ rm = 14

/-- 10_state.md R23, row by row: EQ NE, CS CC, MI PL, VS VC, HI LS, GE LT, GT LE, AL and 1111 (the table is PRESUMED, G8,
notes/assumptions/4.md). -/
def Obligations.ConditionTable : Prop :=
  ∀ n z c v : Bool,
    let f : Flags := { n := n, z := z, c := c, v := v }
    condHolds 0 f = z ∧ condHolds 1 f = !z ∧ condHolds 2 f = c ∧ condHolds 3 f = !c ∧
      condHolds 4 f = n ∧ condHolds 5 f = !n ∧ condHolds 6 f = v ∧ condHolds 7 f = !v ∧
      condHolds 8 f = (c && !z) ∧ condHolds 9 f = (!c || z) ∧
      condHolds 10 f = (n == v) ∧ condHolds 11 f = (n != v) ∧
      condHolds 12 f = (!z && n == v) ∧ condHolds 13 f = (z || n != v) ∧
      condHolds 14 f = true ∧ condHolds 15 f = true

/-- 00_scope.md R14 and 10_state.md R23: for the A32 encodings the condition is always true, whatever the flags hold. That a list
of regions looks at none of these fields is the model's choice, notes/assumptions/10.md; `MemFault` in general (R54) sees the
state. -/
def Obligations.A32FormsIgnoreConditionState : Prop :=
  ∀ (i : Instr) (s : State) (f : Flags) (it : BitVec 8) (b : Bool), i.instrSet = .a32 →
    ReadsAbortAlike (operandsOf i) s { s with flags := f, itstate := it, condIn := b } →
    exec i { s with flags := f, itstate := it, condIn := b } =
      mapOutcome (fun t => { t with flags := f, itstate := it, condIn := b }) (exec i s)

/-- 10_state.md R24 and 92 D25 (the spec's own choice; notes/assumptions/17.md). -/
def Obligations.InconsistentITSTATEIsRefused : Prop :=
  ∀ (i : Instr) (s : State), i.instrSet = .t32 → s.t = true → s.params.condInput = .fromITSTATE →
    s.itstate.toNat % 16 = 0 → s.itstate.toNat / 16 ≠ 0 →
    exec i s = .refused (.unpredictable .itstate)

/-- 10_state.md R35 and 40_vld3_single_lane.md R105 (`pc` and `ITSTATE` advance: G9, G12, notes/assumptions/2.md and 4.md; the
Boolean input's next level is free: notes/assumptions/5.md). -/
def Obligations.FailedConditionSkips : Prop :=
  ∀ (i : Instr) (s : State), i.wellFormed = true → i.instrSet = .t32 → s.t = true →
    conditionPassed .t32 s = some false →
    (s.params.condInput = .fromITSTATE →
      exec i s = .next { s with pc := s.pc + 4, itstate := itAdvance s.itstate }) ∧
    (s.params.condInput = .input →
      ∃ b n, exec i s = .next { s with pc := s.pc + 4, condIn := b, draws := n })

/-- 40_vld3_single_lane.md R105 and 92 D12 (the spec's own choice; which of the two is a free value: notes/assumptions/16.md;
that both stand where Advanced SIMD is not enabled too is the model's choice, notes/assumptions/37.md). -/
def Obligations.FailedConditionOnBadPattern : Prop :=
  ∀ (i : Instr) (s : State), i.instrSet = .t32 → s.t = true → conditionPassed .t32 s = some false →
    let c := operandsOf i
    c.reserved = true ∨ c.n = 15 ∨ 31 < c.d3 →
    (∃ t, exec i s = .next t ∧ OnlyAdvanced s t) ∨
      (c.reserved = true ∧ exec i s = .fault (.undefined .indexAlign)) ∨
      (c.reserved = false ∧ c.n = 15 ∧ exec i s = .refused (.unpredictable .baseIsR15)) ∨
      (c.reserved = false ∧ c.n ≠ 15 ∧ 31 < c.d3 ∧ AdmittedAbove31 s.params.cuD3 c s (exec i s))

/-- 60_exceptions.md R121, with no premise on any register, on memory or on the enable check. -/
def Obligations.ReservedIndexAlignIsUndefined : Prop :=
  (∀ (i : Instr) (s : State), s.instrSet = i.instrSet → conditionPassed i.instrSet s = some true →
    (((operandsOf i).ebytes ≠ 4 ∧ (indexAlignOf i).getLsbD 0 = true) ∨
      ((operandsOf i).ebytes = 4 ∧ ((indexAlignOf i).getLsbD 0 = true ∨ (indexAlignOf i).getLsbD 1 = true))) →
    exec i s = .fault (.undefined .indexAlign)) ∧
  ∀ (i : Instr) (s : State), exec i s = .fault (.undefined .indexAlign) →
    ((operandsOf i).ebytes ≠ 4 ∧ (indexAlignOf i).getLsbD 0 = true) ∨
      ((operandsOf i).ebytes = 4 ∧ ((indexAlignOf i).getLsbD 0 = true ∨ (indexAlignOf i).getLsbD 1 = true))

/-- 40_vld3_single_lane.md R104 and 92 D13 (the spec's own choice; notes/assumptions/15.md). -/
def Obligations.BaseR15IsRefused : Prop :=
  ∀ (i : Instr) (s : State), s.instrSet = i.instrSet → conditionPassed i.instrSet s = some true →
    (operandsOf i).reserved = false → (operandsOf i).n = 15 →
    exec i s = .refused (.unpredictable .baseIsR15)

/-- 40_vld3_single_lane.md R103, 92 D14 and D28 (the spec's own choices; what is drawn is free: notes/assumptions/13.md, 14.md). -/
def Obligations.ThirdRegisterAbove31 : Prop :=
  ∀ (i : Instr) (s : State), s.instrSet = i.instrSet → conditionPassed i.instrSet s = some true →
    (operandsOf i).reserved = false → (operandsOf i).n ≠ 15 → 31 < (operandsOf i).d3 →
    AdmittedAbove31 s.params.cuD3 (operandsOf i) s (exec i s)

/-- 60_exceptions.md R122, with no premise on memory, alignment or `MemFault`. -/
def Obligations.DisabledAdvSIMDRaises : Prop :=
  ∀ (i : Instr) (s : State), i.wellFormed = true → s.instrSet = i.instrSet →
    conditionPassed i.instrSet s = some true →
    (s.advSIMDCheck = .undefined → exec i s = .fault (.undefined .enableCheck)) ∧
      (s.advSIMDCheck = .hypTrap → exec i s = .fault .hypTrapAdvSIMD)

/-- 60_exceptions.md R130; that a table entry saying HypTrap then reads as Undefined is the model's choice, notes/assumptions/9.md. -/
def Obligations.NoHypTrapWithoutHypMode : Prop :=
  ∀ (i : Instr) (s : State), s.params.hasHyp = false → exec i s ≠ .fault .hypTrapAdvSIMD

/-- 20_memory.md R44 and 92 D2 (the spec's own parameter; notes/assumptions/12.md); which of the three is a free value (18.md). -/
def Obligations.StrictMisalignedAccessAborts : Prop :=
  ∀ (i : Instr) (s : State), i.wellFormed = true → s.instrSet = i.instrSet →
    conditionPassed i.instrSet s = some true → s.advSIMDCheck = .enabled → s.strictAlign = true →
    (s.r (operandsOf i).n).toNat % (operandsOf i).ebytes ≠ 0 →
    ∃ k < 3, ∃ after, exec i s =
      .fault (.dataAbort { kind := .alignment, addr := elemAddr (operandsOf i) s k } after)

/-- 60_exceptions.md R123, R124, R128 (the spec's own choices D7, D8; what is drawn is free: notes/assumptions/18.md, 19.md). -/
def Obligations.AbortReportsAReadAndLeavesTheRest : Prop :=
  ∀ (i : Instr) (s : State), i.wellFormed = true → s.instrSet = i.instrSet →
    conditionPassed i.instrSet s = some true → s.advSIMDCheck = .enabled →
    (∃ k < 3, (s.readAbort (elemAddr (operandsOf i) s k) (operandsOf i).ebytes).isSome = true) →
    ∃ info after, exec i s = .fault (.dataAbort info after) ∧
      (∃ k < 3, s.readAbort (elemAddr (operandsOf i) s k) (operandsOf i).ebytes = some info) ∧
      after = { s with dregs := after.dregs, draws := after.draws } ∧
      ∀ r < 32, r ≠ (operandsOf i).d → r ≠ (operandsOf i).d2 → r ≠ (operandsOf i).d3 → after.d r = s.d r

/-- 60_exceptions.md R124 and the stage order of 40_vld3_single_lane.md R90. -/
def Obligations.DataAbortComesLast : Prop :=
  ∀ (i : Instr) (s : State) (info : FaultInfo) (after : State), exec i s = .fault (.dataAbort info after) →
    conditionPassed i.instrSet s = some true ∧ (operandsOf i).reserved = false ∧ (operandsOf i).n ≠ 15 ∧
      (operandsOf i).d3 ≤ 31 ∧ s.advSIMDCheck = .enabled ∧
      ∃ k < 3, s.readAbort (elemAddr (operandsOf i) s k) (operandsOf i).ebytes = some info

/-- 40_vld3_single_lane.md R91 over R90, R97, R98, R99: the completion of A1 in its three variants (byte order: D1, wrap: D22,
`pc`: D9; notes/assumptions/2.md, 11.md, 26.md). -/
def Obligations.ResultA1 : Prop :=
  ∀ (s : State) (dvd : BitVec 5) (rn ia rm : BitVec 4), s.t = false →
    ia.getLsbD 0 = false → rn ≠ 15 → dvd.toNat + 2 ≤ 31 →
    s.advSIMDCheck = .enabled →
    (∀ k < 3, s.memFault (s.r rn.toNat + BitVec.ofNat 32 k) 1 = none) →
    let loaded : State → Prop := fun t =>
      StructureLoaded s t dvd.toNat 1 (ia.toNat / 2)
          (fun k => s.byte (s.r rn.toNat + BitVec.ofNat 32 k)) ∧
        t.pc = s.pc + 4 ∧ t.itstate = s.itstate
    (∃ t, exec (.vld3x8A1Off dvd rn ia) s = .next t ∧ loaded t ∧ t.r rn.toNat = s.r rn.toNat) ∧
      (∃ t, exec (.vld3x8A1PostImm dvd rn ia) s = .next t ∧ loaded t ∧ t.r rn.toNat = s.r rn.toNat + 3) ∧
      (rm ≠ 13 → rm ≠ 15 →
        ∃ t, exec (.vld3x8A1PostReg dvd rn ia rm) s = .next t ∧ loaded t ∧ t.r rn.toNat = s.r rn.toNat + s.r rm.toNat)

/-- 40_vld3_single_lane.md R92 over R90, R97, R98, R99: the completion of A2 in its three variants (byte order: D1, wrap: D22,
`pc`: D9; notes/assumptions/2.md, 11.md, 26.md). -/
def Obligations.ResultA2 : Prop :=
  ∀ (s : State) (dvd : BitVec 5) (rn ia rm : BitVec 4), s.t = false →
    ia.getLsbD 0 = false → rn ≠ 15 → dvd.toNat + 2 * (if ia.getLsbD 1 then 2 else 1) ≤ 31 →
    s.advSIMDCheck = .enabled →
    (s.strictAlign = true → (s.r rn.toNat).toNat % 2 = 0) →
    (∀ k < 3, s.memFault (s.r rn.toNat + BitVec.ofNat 32 (2 * k)) 2 = none) →
    let loaded : State → Prop := fun t =>
      StructureLoaded s t dvd.toNat (if ia.getLsbD 1 then 2 else 1) (ia.toNat / 4)
          (fun k => halfAt s (s.r rn.toNat + BitVec.ofNat 32 (2 * k))) ∧
        t.pc = s.pc + 4 ∧ t.itstate = s.itstate
    (∃ t, exec (.vld3x16A2Off dvd rn ia) s = .next t ∧ loaded t ∧ t.r rn.toNat = s.r rn.toNat) ∧
      (∃ t, exec (.vld3x16A2PostImm dvd rn ia) s = .next t ∧ loaded t ∧ t.r rn.toNat = s.r rn.toNat + 6) ∧
      (rm ≠ 13 → rm ≠ 15 →
        ∃ t, exec (.vld3x16A2PostReg dvd rn ia rm) s = .next t ∧ loaded t ∧ t.r rn.toNat = s.r rn.toNat + s.r rm.toNat)

/-- 40_vld3_single_lane.md R93 over R90, R97, R98, R99: the completion of A3 in its three variants (byte order: D1, wrap: D22,
`pc`: D9; notes/assumptions/2.md, 11.md, 26.md). -/
def Obligations.ResultA3 : Prop :=
  ∀ (s : State) (dvd : BitVec 5) (rn ia rm : BitVec 4), s.t = false →
    ia.getLsbD 0 = false → ia.getLsbD 1 = false → rn ≠ 15 → dvd.toNat + 2 * (if ia.getLsbD 2 then 2 else 1) ≤ 31 →
    s.advSIMDCheck = .enabled →
    (s.strictAlign = true → (s.r rn.toNat).toNat % 4 = 0) →
    (∀ k < 3, s.memFault (s.r rn.toNat + BitVec.ofNat 32 (4 * k)) 4 = none) →
    let loaded : State → Prop := fun t =>
      StructureLoaded s t dvd.toNat (if ia.getLsbD 2 then 2 else 1) (ia.toNat / 8)
          (fun k => wordAt s (s.r rn.toNat + BitVec.ofNat 32 (4 * k))) ∧
        t.pc = s.pc + 4 ∧ t.itstate = s.itstate
    (∃ t, exec (.vld3x32A3Off dvd rn ia) s = .next t ∧ loaded t ∧ t.r rn.toNat = s.r rn.toNat) ∧
      (∃ t, exec (.vld3x32A3PostImm dvd rn ia) s = .next t ∧ loaded t ∧ t.r rn.toNat = s.r rn.toNat + 12) ∧
      (rm ≠ 13 → rm ≠ 15 →
        ∃ t, exec (.vld3x32A3PostReg dvd rn ia rm) s = .next t ∧ loaded t ∧ t.r rn.toNat = s.r rn.toNat + s.r rm.toNat)

/-- 40_vld3_single_lane.md R94 over R90, R97, R98, R99: the completion of T1 in its three variants (byte order: D1, wrap: D22,
`pc`: D9; notes/assumptions/2.md, 11.md, 26.md). -/
def Obligations.ResultT1 : Prop :=
  ∀ (s : State) (dvd : BitVec 5) (rn ia rm : BitVec 4), s.t = true → conditionPassed .t32 s = some true →
    ia.getLsbD 0 = false → rn ≠ 15 → dvd.toNat + 2 ≤ 31 →
    s.advSIMDCheck = .enabled →
    (∀ k < 3, s.memFault (s.r rn.toNat + BitVec.ofNat 32 k) 1 = none) →
    let loaded : State → Prop := fun t =>
      StructureLoaded s t dvd.toNat 1 (ia.toNat / 2)
          (fun k => s.byte (s.r rn.toNat + BitVec.ofNat 32 k)) ∧
        t.pc = s.pc + 4 ∧ (s.params.condInput = .fromITSTATE → t.itstate = itAdvance s.itstate)
    (∃ t, exec (.vld3x8T1Off dvd rn ia) s = .next t ∧ loaded t ∧ t.r rn.toNat = s.r rn.toNat) ∧
      (∃ t, exec (.vld3x8T1PostImm dvd rn ia) s = .next t ∧ loaded t ∧ t.r rn.toNat = s.r rn.toNat + 3) ∧
      (rm ≠ 13 → rm ≠ 15 →
        ∃ t, exec (.vld3x8T1PostReg dvd rn ia rm) s = .next t ∧ loaded t ∧ t.r rn.toNat = s.r rn.toNat + s.r rm.toNat)

/-- 40_vld3_single_lane.md R95 over R90, R97, R98, R99: the completion of T2 in its three variants (byte order: D1, wrap: D22,
`pc`: D9; notes/assumptions/2.md, 11.md, 26.md). -/
def Obligations.ResultT2 : Prop :=
  ∀ (s : State) (dvd : BitVec 5) (rn ia rm : BitVec 4), s.t = true → conditionPassed .t32 s = some true →
    ia.getLsbD 0 = false → rn ≠ 15 → dvd.toNat + 2 * (if ia.getLsbD 1 then 2 else 1) ≤ 31 →
    s.advSIMDCheck = .enabled →
    (s.strictAlign = true → (s.r rn.toNat).toNat % 2 = 0) →
    (∀ k < 3, s.memFault (s.r rn.toNat + BitVec.ofNat 32 (2 * k)) 2 = none) →
    let loaded : State → Prop := fun t =>
      StructureLoaded s t dvd.toNat (if ia.getLsbD 1 then 2 else 1) (ia.toNat / 4)
          (fun k => halfAt s (s.r rn.toNat + BitVec.ofNat 32 (2 * k))) ∧
        t.pc = s.pc + 4 ∧ (s.params.condInput = .fromITSTATE → t.itstate = itAdvance s.itstate)
    (∃ t, exec (.vld3x16T2Off dvd rn ia) s = .next t ∧ loaded t ∧ t.r rn.toNat = s.r rn.toNat) ∧
      (∃ t, exec (.vld3x16T2PostImm dvd rn ia) s = .next t ∧ loaded t ∧ t.r rn.toNat = s.r rn.toNat + 6) ∧
      (rm ≠ 13 → rm ≠ 15 →
        ∃ t, exec (.vld3x16T2PostReg dvd rn ia rm) s = .next t ∧ loaded t ∧ t.r rn.toNat = s.r rn.toNat + s.r rm.toNat)

/-- 40_vld3_single_lane.md R96 over R90, R97, R98, R99: the completion of T3 in its three variants (byte order: D1, wrap: D22,
`pc`: D9; notes/assumptions/2.md, 11.md, 26.md). -/
def Obligations.ResultT3 : Prop :=
  ∀ (s : State) (dvd : BitVec 5) (rn ia rm : BitVec 4), s.t = true → conditionPassed .t32 s = some true →
    ia.getLsbD 0 = false → ia.getLsbD 1 = false → rn ≠ 15 → dvd.toNat + 2 * (if ia.getLsbD 2 then 2 else 1) ≤ 31 →
    s.advSIMDCheck = .enabled →
    (s.strictAlign = true → (s.r rn.toNat).toNat % 4 = 0) →
    (∀ k < 3, s.memFault (s.r rn.toNat + BitVec.ofNat 32 (4 * k)) 4 = none) →
    let loaded : State → Prop := fun t =>
      StructureLoaded s t dvd.toNat (if ia.getLsbD 2 then 2 else 1) (ia.toNat / 8)
          (fun k => wordAt s (s.r rn.toNat + BitVec.ofNat 32 (4 * k))) ∧
        t.pc = s.pc + 4 ∧ (s.params.condInput = .fromITSTATE → t.itstate = itAdvance s.itstate)
    (∃ t, exec (.vld3x32T3Off dvd rn ia) s = .next t ∧ loaded t ∧ t.r rn.toNat = s.r rn.toNat) ∧
      (∃ t, exec (.vld3x32T3PostImm dvd rn ia) s = .next t ∧ loaded t ∧ t.r rn.toNat = s.r rn.toNat + 12) ∧
      (rm ≠ 13 → rm ≠ 15 →
        ∃ t, exec (.vld3x32T3PostReg dvd rn ia rm) s = .next t ∧ loaded t ∧ t.r rn.toNat = s.r rn.toNat + s.r rm.toNat)

/-- 70_reset_and_hazards.md R141: the premises for an execution to reach `Completed`. -/
def Obligations.LaunchPremisesSuffice : Prop :=
  ∀ (i : Instr) (s : State), Ready i s →
    let c := operandsOf i
    ∃ t, exec i s = .next t ∧
      StructureLoaded s t c.d c.inc c.index (fun k => s.readValue (s.r c.n + BitVec.ofNat 32 (k * c.ebytes)) c.ebytes)

/-- 40_vld3_single_lane.md R97, for all six encodings. -/
def Obligations.OffsetVariantKeepsBase : Prop :=
  ∀ (i : Instr) (s : State), Ready i s → (operandsOf i).m = 15 →
    let c := operandsOf i
    ∃ t, exec i s = .next t ∧
      StructureLoaded s t c.d c.inc c.index (fun k => s.readValue (s.r c.n + BitVec.ofNat 32 (k * c.ebytes)) c.ebytes) ∧
      ∀ k < 15, t.r k = s.r k

/-- 40_vld3_single_lane.md R98, for all six encodings, `n = 13` included. -/
def Obligations.PostIndexedImmediateAddsStructureSize : Prop :=
  (∀ (i : Instr) (s : State), Ready i s → (operandsOf i).m = 13 →
    let c := operandsOf i
    ∃ t, exec i s = .next t ∧
      StructureLoaded s t c.d c.inc c.index (fun k => s.readValue (s.r c.n + BitVec.ofNat 32 (k * c.ebytes)) c.ebytes) ∧
      (t.r c.n).toNat = ((s.r c.n).toNat + 3 * c.ebytes) % 2 ^ 32 ∧
      3 * c.ebytes = (if c.ebytes = 1 then 3 else if c.ebytes = 2 then 6 else 12) ∧
      ∀ k < 15, k ≠ c.n → t.r k = s.r k) ∧
  ∀ (i : Instr) (s : State) (f : Fault), (operandsOf i).m = 13 → exec i s = .fault f →
    (stateAfter f s).regs = s.regs

/-- 40_vld3_single_lane.md R99, for all six encodings. -/
def Obligations.PostIndexedRegisterAddsIndex : Prop :=
  (∀ (i : Instr) (s : State), Ready i s → (operandsOf i).m ≠ 13 → (operandsOf i).m ≠ 15 →
    let c := operandsOf i
    ∃ t, exec i s = .next t ∧
      StructureLoaded s t c.d c.inc c.index (fun k => s.readValue (s.r c.n + BitVec.ofNat 32 (k * c.ebytes)) c.ebytes) ∧
      (t.r c.n).toNat = ((s.r c.n).toNat + (s.r c.m).toNat) % 2 ^ 32 ∧
      ∀ k < 15, k ≠ c.n → t.r k = s.r k) ∧
  ∀ (i : Instr) (s : State) (f : Fault), (operandsOf i).m ≠ 13 → (operandsOf i).m ≠ 15 → exec i s = .fault f →
    (stateAfter f s).regs = s.regs

/-- 40_vld3_single_lane.md R102 (an inference the spec marks as its own). -/
def Obligations.SameBaseAndIndexDoubles : Prop :=
  ∀ (i : Instr) (s : State), Ready i s → (operandsOf i).m = (operandsOf i).n → (operandsOf i).m ≠ 13 →
    ∃ t, exec i s = .next t ∧ (t.r (operandsOf i).n).toNat = 2 * (s.r (operandsOf i).n).toNat % 2 ^ 32

/-- 10_state.md R34; the clause on the condition input is about the model's own field condIn and rests on its choice,
notes/assumptions/5.md. -/
def Obligations.CompletedFrame : Prop :=
  ∀ (i : Instr) (s : State), Ready i s →
    let c := operandsOf i
    ∃ t, exec i s = .next t ∧
      (∀ r < 32, r ≠ c.d → r ≠ c.d2 → r ≠ c.d3 → t.d r = s.d r) ∧
      (∀ r < 32, ∀ j < 64, (j < 8 * c.ebytes * c.index ∨ 8 * c.ebytes * (c.index + 1) ≤ j) →
        (t.d r).getLsbD j = (s.d r).getLsbD j) ∧
      (∀ k < 15, (k ≠ c.n ∨ c.wback = false) → t.r k = s.r k) ∧
      (s.t = false → t.itstate = s.itstate) ∧
      (s.t = false ∨ s.params.condInput = .fromITSTATE → t.condIn = s.condIn) ∧
      ControlKept s t ∧ MemoryKept s t

/-- 40_vld3_single_lane.md R106, R107, 10_state.md R22, R24 (D9, D11; notes/assumptions/2.md, 4.md). -/
def Obligations.EveryNextStateIsSequential : Prop :=
  ∀ (i : Instr) (s t : State), exec i s = .next t →
    (t.pc.toNat = (s.pc.toNat + 4) % 2 ^ 32) ∧
      t.itstate = (if s.t = true ∧ s.params.condInput = .fromITSTATE then itAdvance s.itstate else s.itstate)

/-- 10_state.md R21, 40_vld3_single_lane.md R103, R107. -/
def Obligations.OnlyTheBaseIsWritten : Prop :=
  ∀ (i : Instr) (s t : State), exec i s = .next t →
    ∀ k < 15, (k ≠ (operandsOf i).n ∨ (operandsOf i).m = 15) → t.r k = s.r k

/-- 10_state.md R23, R25, R32, R36. -/
def Obligations.ControlAndMemoryNeverWritten : Prop :=
  ∀ (i : Instr) (s : State),
    (∀ t, exec i s = .next t → ControlKept s t ∧ MemoryKept s t) ∧
      ∀ f, exec i s = .fault f → ControlKept s (stateAfter f s) ∧ MemoryKept s (stateAfter f s)

/-- 60_exceptions.md R125, R128, 40_vld3_single_lane.md R106 (D6, D7; notes/assumptions/19.md, 20.md). -/
def Obligations.FaultsArePrecise : Prop :=
  ∀ (i : Instr) (s : State) (f : Fault), exec i s = .fault f →
    let t := stateAfter f s
    t.regs = s.regs ∧ t.pc = s.pc ∧ t.itstate = s.itstate ∧ t.condIn = s.condIn ∧ MemoryKept s t ∧
      ∀ r < 32, ((∀ info after, f ≠ .dataAbort info after) ∨
        (r ≠ (operandsOf i).d ∧ r ≠ (operandsOf i).d2 ∧ r ≠ (operandsOf i).d3)) → t.d r = s.d r

/-- 40_vld3_single_lane.md R100, 00_scope.md R11 (the slice is G5, notes/assumptions/27.md). -/
def Obligations.LaneWriteLaw : Prop :=
  ∀ (w : Nat), (w = 8 ∨ w = 16 ∨ w = 32) → ∀ (v : DWord) (x : BitVec w) (i j : Nat),
    i < 64 / w → j < 64 / w →
    elem (setElem v i w x) j w = if j = i then x else elem v j w

/-- 40_vld3_single_lane.md R100. -/
def Obligations.LaneLawOnCompletion : Prop :=
  (∀ (i : Instr) (s : State), Ready i s →
    let c := operandsOf i
    let w := 8 * c.ebytes
    let law : DWord → BitVec w → DWord := fun old e =>
      (old &&& ~~~(((1#64 <<< w) - 1#64) <<< (w * c.index))) ||| (e.setWidth 64 <<< (w * c.index))
    (w = 8 ∨ w = 16 ∨ w = 32) ∧ c.d < c.d2 ∧ c.d2 < c.d3 ∧ c.index < 64 / w ∧
      ∃ t, exec i s = .next t ∧
        t.d c.d = law (s.d c.d) (s.readValue (s.r c.n) c.ebytes) ∧
        t.d c.d2 = law (s.d c.d2) (s.readValue (s.r c.n + BitVec.ofNat 32 c.ebytes) c.ebytes) ∧
        t.d c.d3 = law (s.d c.d3) (s.readValue (s.r c.n + BitVec.ofNat 32 (2 * c.ebytes)) c.ebytes)) ∧
  ∀ (c : Operands) (s : State) (r r' : Nat) (x y : BitVec (8 * c.ebytes)), r ≠ r' →
    (s.setLane c r x).setLane c r' y = (s.setLane c r' y).setLane c r x

/-- 10_state.md R27 (PRESUMED G7, notes/assumptions/25.md). -/
def Obligations.QAndSViewsFollowALaneWrite : Prop :=
  ∀ (s : State) (k : Nat) (v : DWord), k < 32 →
    (s.setD k v).q (k / 2) =
        (if k % 2 = 0 then (s.q (k / 2)).extractLsb' 64 64 ++ v else v ++ (s.q (k / 2)).extractLsb' 0 64) ∧
      (∀ j < 16, j ≠ k / 2 → (s.setD k v).q j = s.q j) ∧
      (k < 16 → (s.setD k v).sreg (2 * k) = v.extractLsb' 0 32 ∧ (s.setD k v).sreg (2 * k + 1) = v.extractLsb' 32 32) ∧
      ∀ j < 32, j / 2 ≠ k → (s.setD k v).sreg j = s.sreg j

/-- 95_test_vectors.md section 2.4, from 40_vld3_single_lane.md R98 and R99. -/
def Obligations.ImmediateIsRegisterWithStructureSize : Prop :=
  ∀ (s : State) (dvd : BitVec 5) (rn ia rm : BitVec 4), rm ≠ 13 → rm ≠ 15 → rm ≠ rn →
    (s.r rm.toNat = 3 → exec (.vld3x8A1PostImm dvd rn ia) s = exec (.vld3x8A1PostReg dvd rn ia rm) s) ∧
    (s.r rm.toNat = 6 → exec (.vld3x16A2PostImm dvd rn ia) s = exec (.vld3x16A2PostReg dvd rn ia rm) s) ∧
    (s.r rm.toNat = 12 → exec (.vld3x32A3PostImm dvd rn ia) s = exec (.vld3x32A3PostReg dvd rn ia rm) s) ∧
    (s.r rm.toNat = 3 → exec (.vld3x8T1PostImm dvd rn ia) s = exec (.vld3x8T1PostReg dvd rn ia rm) s) ∧
    (s.r rm.toNat = 6 → exec (.vld3x16T2PostImm dvd rn ia) s = exec (.vld3x16T2PostReg dvd rn ia rm) s) ∧
    (s.r rm.toNat = 12 → exec (.vld3x32T3PostImm dvd rn ia) s = exec (.vld3x32T3PostReg dvd rn ia rm) s)

/-- 95_test_vectors.md section 2.4 (Idempotence), from 40_vld3_single_lane.md R90 and 20_memory.md R56. That a list of
regions answers alike before and after the first execution is the model's choice, notes/assumptions/10.md. -/
def Obligations.OffsetFormsAreIdempotent : Prop :=
  ∀ (i : Instr) (s : State), Ready i s → (operandsOf i).m = 15 →
    ∃ t, exec i s = .next t ∧
      (∀ u, exec i t = .next u → u.dregs = t.dregs ∧ u.regs = t.regs) ∧
      (s.t = false → ReadsAbortAlike (operandsOf i) s t → ∃ u, exec i t = .next u)

/-- 20_memory.md R42: 'For `ebytes = 1` the two byte orders give the same result.' That a list of regions does not look at the byte
order is the model's choice, notes/assumptions/10.md. -/
def Obligations.ByteFormsIgnoreByteOrder : Prop :=
  ∀ (i : Instr) (s : State) (b : Bool), (operandsOf i).ebytes = 1 →
    ReadsAbortAlike (operandsOf i) s { s with bigEndianData := b } →
    exec i { s with bigEndianData := b } = mapOutcome (fun t => { t with bigEndianData := b }) (exec i s)

/-- 40_vld3_single_lane.md R110 (an inference the spec marks as its own): on `Completed` outside `d3 > 31` there is no draw.
The count of draws is the model's own field (notes/assumptions/21.md), which `MemFault` does not see (notes/assumptions/10.md). -/
def Obligations.CompletionTakesNoDraw : Prop :=
  ∀ (i : Instr) (s : State) (n : Nat), Ready i s → (s.t = false ∨ s.params.condInput = .fromITSTATE) →
    exec i { s with draws := n } = mapOutcome (fun t => { t with draws := n }) (exec i s)

/-- 40_vld3_single_lane.md R108, 60_exceptions.md R129: modes matter only as inputs of the enable check and of `MemFault`. -/
def Obligations.RunsAlikeInEveryModeThatIsEnabled : Prop :=
  ∀ (i : Instr) (s : State) (md : PEMode) (sec : SecurityState),
    Ready i s → Ready i { s with mode := md, security := sec } →
    exec i { s with mode := md, security := sec } =
      mapOutcome (fun t => { t with mode := md, security := sec }) (exec i s)

/-- 20_memory.md R45: 'Together they cover the `3*ebytes` consecutive bytes from `R[n]`.' R45 says nothing of aborts: that a list of
regions does not look at memory is the model's choice, notes/assumptions/10.md; `MemFault` in general (R54) sees all of it. -/
def Obligations.OnlyTheStructureIsRead : Prop :=
  ∀ (i : Instr) (s : State) (m : Memory),
    (∀ k < 3 * (operandsOf i).ebytes,
      let a := s.r (operandsOf i).n + BitVec.ofNat 32 k
      Memory.read m a.toNat = s.byte a) →
    ReadsAbortAlike (operandsOf i) s { s with mem := m } →
    exec i { s with mem := m } = mapOutcome (fun t => { t with mem := m }) (exec i s)

/-- 10_state.md R22, R25, 20_memory.md R43 (G11, notes/assumptions/6.md). -/
def Obligations.StepRunsDecodedInstr : Prop :=
  ∀ (s : State) (i : Instr), s.pc.toNat % (if s.t then 2 else 4) = 0 →
    decodeBytes (if s.t then .t32 else .a32) [s.byte s.pc, s.byte (s.pc + 1), s.byte (s.pc + 2), s.byte (s.pc + 3)] = .ok i →
    step s = exec i s

/-- 30_encoding.md R71, R73, 10_state.md R25; the misaligned `pc` is the model's choice, notes/assumptions/7.md. That size = 11 is refused
also where a T32 condition fails is the model's, DEDUCED, notes/assumptions/35.md; the 16-bit case of T32 is PRESUMED,
notes/assumptions/31.md. -/
def Obligations.StepRefusesWhatDoesNotDecode : Prop :=
  (∀ (s : State) (why : DecodeReject), s.pcAligned = true → decodeBytes s.instrSet s.fetchBytes = .error why →
      step s = .refused (.notThisInstruction why)) ∧
    ∀ s : State, s.pc.toNat % (if s.t then 2 else 4) ≠ 0 → step s = .refused .pcMisaligned

/-- 10_state.md R22 (`pc` stays a multiple of 4 or 2), R24 (a consistent `ITSTATE` advances to a consistent one), 20_memory.md R40
(memory), over every instruction. -/
def Obligations.StepKeepsInv : Prop :=
  ∀ s t : State, s.Inv → step s = .next t → t.Inv

/-- The reset values are the model's (10_state.md R37 gives none; notes/assumptions/22.md, 23.md). -/
def Obligations.ResetMeetsInv : Prop :=
  State.reset.Inv

/-- The spec gives no reset value (10_state.md R37): every clause is the model's choice, notes/assumptions/8.md, 11.md, 12.md, 22.md,
23.md. -/
def Obligations.ResetState : Prop :=
  let s := State.reset
  (∀ k < 15, s.r k = 0) ∧ (∀ k < 32, s.d k = 0) ∧ s.pc = 0 ∧ s.itstate = 0 ∧ s.t = false ∧
    s.flags = { n := false, z := false, c := false, v := false } ∧
    s.cpacr = 0 ∧ s.nsacr = 0 ∧ s.hcptr = 0 ∧ s.fpexc = 0 ∧ s.security = .secure ∧ s.mode = .supervisor ∧
    s.dit = false ∧ s.bigEndianData = false ∧ s.strictAlign = false ∧ (∀ a, s.byte a = 0) ∧
    s.advSIMDCheck = .enabled ∧ ∀ a n, s.memFault a n = none

/-- 10_state.md R28 (an inference the spec marks as its own): the enable premise is preserved by every step in scope.
The clause on aborts is no part of R28: that a list of regions looks at nothing a step changes is the model's choice,
notes/assumptions/10.md. -/
def Obligations.EnableAndFaultPremisesPreserved : Prop :=
  ∀ s t : State, step s = .next t →
    t.advSIMDCheck = s.advSIMDCheck ∧
      (s.params.memFault ≠ .uninterpreted → ∀ a n, t.readAbort a n = s.readAbort a n)

/-- 20_memory.md R43 and 30_encoding.md R60; the placing stands for loading a program (the model's choice, notes/assumptions/28.md). -/
def Obligations.PlacedWordRunsAsThatInstr : Prop :=
  ∀ (i : Instr) (s : State), i.encodable = true → Memory.wf s.mem = true → s.pc.toNat % 4 = 0 →
    let p := s.withFetchWord 32 (encode i).toNat
    p.instrSet = i.instrSet ∧ Memory.wf p.mem = true ∧
      (∀ a : Word, (∀ k < 4, a ≠ s.pc + BitVec.ofNat 32 k) → p.byte a = s.byte a) ∧
      step p = exec i p

/-- 20_memory.md R54, 60_exceptions.md R123 (the settings of `MemFault`: notes/assumptions/10.md). -/
def Obligations.MemFaultsAnswerIsReported : Prop :=
  ∀ (i : Instr) (s : State) (k : Nat) (info : FaultInfo), i.wellFormed = true → s.instrSet = i.instrSet →
    conditionPassed i.instrSet s = some true → s.advSIMDCheck = .enabled → s.strictAlign = false → k < 3 →
    s.memFault (elemAddr (operandsOf i) s k) (operandsOf i).ebytes = some info →
    (∀ j < 3, j ≠ k → s.memFault (elemAddr (operandsOf i) s j) (operandsOf i).ebytes = none) →
    ∃ after, exec i s = .fault (.dataAbort info after)
end

