-- ==== Sys2Proof/Laws/Encoding.lean ====
section
/-! SUPPORT. The fields of an encoded word read back as they were put in, and the byte layout reads back as the value:
what the proofs about decode and encode cite. -/

namespace Sys2Proof

theorem field_dvd (set : InstrSet) (size : BitVec 2) (dvd : BitVec 5) (rn ia rm : BitVec 4) :
    field (wordOfFields set size dvd rn ia rm) 22 1 ++ field (wordOfFields set size dvd rn ia rm) 12 4 = dvd := by
  apply BitVec.eq_of_getLsbD_eq
  intro i hi
  simp only [field, wordOfFields, BitVec.getLsbD_append, BitVec.getLsbD_extractLsb']
  interval_cases i <;> simp

theorem field_opcodeByte (set : InstrSet) (size : BitVec 2) (dvd : BitVec 5) (rn ia rm : BitVec 4) :
    field (wordOfFields set size dvd rn ia rm) 24 8 = opcodeByte set := by
  apply BitVec.eq_of_getLsbD_eq
  intro i hi
  simp only [field, wordOfFields, BitVec.getLsbD_append, BitVec.getLsbD_extractLsb']
  interval_cases i <;> simp

theorem field_bit23 (set : InstrSet) (size : BitVec 2) (dvd : BitVec 5) (rn ia rm : BitVec 4) :
    field (wordOfFields set size dvd rn ia rm) 23 1 = 1#1 := by
  apply BitVec.eq_of_getLsbD_eq
  intro i hi
  simp only [field, wordOfFields, BitVec.getLsbD_append, BitVec.getLsbD_extractLsb']
  obtain rfl : i = 0 := by omega
  simp

theorem field_bits21_20 (set : InstrSet) (size : BitVec 2) (dvd : BitVec 5) (rn ia rm : BitVec 4) :
    field (wordOfFields set size dvd rn ia rm) 20 2 = 2#2 := by
  apply BitVec.eq_of_getLsbD_eq
  intro i hi
  simp only [field, wordOfFields, BitVec.getLsbD_append, BitVec.getLsbD_extractLsb']
  interval_cases i <;> simp

theorem field_bits9_8 (set : InstrSet) (size : BitVec 2) (dvd : BitVec 5) (rn ia rm : BitVec 4) :
    field (wordOfFields set size dvd rn ia rm) 8 2 = 2#2 := by
  apply BitVec.eq_of_getLsbD_eq
  intro i hi
  simp only [field, wordOfFields, BitVec.getLsbD_append, BitVec.getLsbD_extractLsb']
  interval_cases i <;> simp

theorem field_size (set : InstrSet) (size : BitVec 2) (dvd : BitVec 5) (rn ia rm : BitVec 4) :
    field (wordOfFields set size dvd rn ia rm) 10 2 = size := by
  apply BitVec.eq_of_getLsbD_eq
  intro i hi
  simp only [field, wordOfFields, BitVec.getLsbD_append, BitVec.getLsbD_extractLsb']
  interval_cases i <;> simp

theorem field_rn (set : InstrSet) (size : BitVec 2) (dvd : BitVec 5) (rn ia rm : BitVec 4) :
    field (wordOfFields set size dvd rn ia rm) 16 4 = rn := by
  apply BitVec.eq_of_getLsbD_eq
  intro i hi
  simp only [field, wordOfFields, BitVec.getLsbD_append, BitVec.getLsbD_extractLsb']
  interval_cases i <;> simp

theorem field_ia (set : InstrSet) (size : BitVec 2) (dvd : BitVec 5) (rn ia rm : BitVec 4) :
    field (wordOfFields set size dvd rn ia rm) 4 4 = ia := by
  apply BitVec.eq_of_getLsbD_eq
  intro i hi
  simp only [field, wordOfFields, BitVec.getLsbD_append, BitVec.getLsbD_extractLsb']
  interval_cases i <;> simp

theorem field_rm (set : InstrSet) (size : BitVec 2) (dvd : BitVec 5) (rn ia rm : BitVec 4) :
    field (wordOfFields set size dvd rn ia rm) 0 4 = rm := by
  apply BitVec.eq_of_getLsbD_eq
  intro i hi
  simp only [field, wordOfFields, BitVec.getLsbD_append, BitVec.getLsbD_extractLsb']
  interval_cases i <;> simp

/-- The decoder on assembled fields (R62 to R66). -/
theorem decode_wordOfFields (set : InstrSet) (size : BitVec 2) (dvd : BitVec 5) (rn ia rm : BitVec 4) (h : size ≠ 3#2) :
    decode set (wordOfFields set size dvd rn ia rm) = .ok (instrOfFields set size dvd rn ia rm) := by
  simp [decode, inSpace, field_dvd, field_opcodeByte, field_bit23, field_bits21_20, field_bits9_8, field_size, field_rn,
    field_ia, field_rm, h]

/-- The byte layout of a value reads back as the value (R43). -/
theorem valueOfBytes_a32 (w : Word) : valueOfBytes .a32 (field w 0 8) (field w 8 8) (field w 16 8) (field w 24 8) = w := by
  apply BitVec.eq_of_getLsbD_eq
  intro i hi
  simp only [field, valueOfBytes, BitVec.getLsbD_append, BitVec.getLsbD_extractLsb']
  interval_cases i <;> simp

theorem valueOfBytes_t32 (w : Word) : valueOfBytes .t32 (field w 16 8) (field w 24 8) (field w 0 8) (field w 8 8) = w := by
  apply BitVec.eq_of_getLsbD_eq
  intro i hi
  simp only [field, valueOfBytes, BitVec.getLsbD_append, BitVec.getLsbD_extractLsb']
  interval_cases i <;> simp

end Sys2Proof
end

