-- ==== Sys2Proof/Laws/State.lean ====
section
/-! SUPPORT. One lemma per field per state update of Machine/Ops.lean, so that no proof unfolds a record update. -/

namespace Sys2Proof.Machine

@[simp] theorem State.setR_regs (s : State) (i : Nat) (v : Word) : (s.setR i v).regs = s.regs.setIfInBounds i v := rfl
@[simp] theorem State.setR_pc (s : State) (i : Nat) (v : Word) : (s.setR i v).pc = s.pc := rfl
@[simp] theorem State.setR_dregs (s : State) (i : Nat) (v : Word) : (s.setR i v).dregs = s.dregs := rfl
@[simp] theorem State.setR_flags (s : State) (i : Nat) (v : Word) : (s.setR i v).flags = s.flags := rfl
@[simp] theorem State.setR_itstate (s : State) (i : Nat) (v : Word) : (s.setR i v).itstate = s.itstate := rfl
@[simp] theorem State.setR_t (s : State) (i : Nat) (v : Word) : (s.setR i v).t = s.t := rfl
@[simp] theorem State.setR_cpacr (s : State) (i : Nat) (v : Word) : (s.setR i v).cpacr = s.cpacr := rfl
@[simp] theorem State.setR_nsacr (s : State) (i : Nat) (v : Word) : (s.setR i v).nsacr = s.nsacr := rfl
@[simp] theorem State.setR_hcptr (s : State) (i : Nat) (v : Word) : (s.setR i v).hcptr = s.hcptr := rfl
@[simp] theorem State.setR_fpexc (s : State) (i : Nat) (v : Word) : (s.setR i v).fpexc = s.fpexc := rfl
@[simp] theorem State.setR_security (s : State) (i : Nat) (v : Word) : (s.setR i v).security = s.security := rfl
@[simp] theorem State.setR_mode (s : State) (i : Nat) (v : Word) : (s.setR i v).mode = s.mode := rfl
@[simp] theorem State.setR_dit (s : State) (i : Nat) (v : Word) : (s.setR i v).dit = s.dit := rfl
@[simp] theorem State.setR_bigEndianData (s : State) (i : Nat) (v : Word) : (s.setR i v).bigEndianData = s.bigEndianData := rfl
@[simp] theorem State.setR_strictAlign (s : State) (i : Nat) (v : Word) : (s.setR i v).strictAlign = s.strictAlign := rfl
@[simp] theorem State.setR_mem (s : State) (i : Nat) (v : Word) : (s.setR i v).mem = s.mem := rfl
@[simp] theorem State.setR_condIn (s : State) (i : Nat) (v : Word) : (s.setR i v).condIn = s.condIn := rfl
@[simp] theorem State.setR_params (s : State) (i : Nat) (v : Word) : (s.setR i v).params = s.params := rfl
@[simp] theorem State.setR_draws (s : State) (i : Nat) (v : Word) : (s.setR i v).draws = s.draws := rfl

@[simp] theorem State.setD_regs (s : State) (i : Nat) (v : DWord) : (s.setD i v).regs = s.regs := rfl
@[simp] theorem State.setD_pc (s : State) (i : Nat) (v : DWord) : (s.setD i v).pc = s.pc := rfl
@[simp] theorem State.setD_dregs (s : State) (i : Nat) (v : DWord) : (s.setD i v).dregs = s.dregs.setIfInBounds i v := rfl
@[simp] theorem State.setD_flags (s : State) (i : Nat) (v : DWord) : (s.setD i v).flags = s.flags := rfl
@[simp] theorem State.setD_itstate (s : State) (i : Nat) (v : DWord) : (s.setD i v).itstate = s.itstate := rfl
@[simp] theorem State.setD_t (s : State) (i : Nat) (v : DWord) : (s.setD i v).t = s.t := rfl
@[simp] theorem State.setD_cpacr (s : State) (i : Nat) (v : DWord) : (s.setD i v).cpacr = s.cpacr := rfl
@[simp] theorem State.setD_nsacr (s : State) (i : Nat) (v : DWord) : (s.setD i v).nsacr = s.nsacr := rfl
@[simp] theorem State.setD_hcptr (s : State) (i : Nat) (v : DWord) : (s.setD i v).hcptr = s.hcptr := rfl
@[simp] theorem State.setD_fpexc (s : State) (i : Nat) (v : DWord) : (s.setD i v).fpexc = s.fpexc := rfl
@[simp] theorem State.setD_security (s : State) (i : Nat) (v : DWord) : (s.setD i v).security = s.security := rfl
@[simp] theorem State.setD_mode (s : State) (i : Nat) (v : DWord) : (s.setD i v).mode = s.mode := rfl
@[simp] theorem State.setD_dit (s : State) (i : Nat) (v : DWord) : (s.setD i v).dit = s.dit := rfl
@[simp] theorem State.setD_bigEndianData (s : State) (i : Nat) (v : DWord) : (s.setD i v).bigEndianData = s.bigEndianData := rfl
@[simp] theorem State.setD_strictAlign (s : State) (i : Nat) (v : DWord) : (s.setD i v).strictAlign = s.strictAlign := rfl
@[simp] theorem State.setD_mem (s : State) (i : Nat) (v : DWord) : (s.setD i v).mem = s.mem := rfl
@[simp] theorem State.setD_condIn (s : State) (i : Nat) (v : DWord) : (s.setD i v).condIn = s.condIn := rfl
@[simp] theorem State.setD_params (s : State) (i : Nat) (v : DWord) : (s.setD i v).params = s.params := rfl
@[simp] theorem State.setD_draws (s : State) (i : Nat) (v : DWord) : (s.setD i v).draws = s.draws := rfl

@[simp] theorem State.setByte_regs (s : State) (a : Word) (v : Byte) : (s.setByte a v).regs = s.regs := rfl
@[simp] theorem State.setByte_pc (s : State) (a : Word) (v : Byte) : (s.setByte a v).pc = s.pc := rfl
@[simp] theorem State.setByte_dregs (s : State) (a : Word) (v : Byte) : (s.setByte a v).dregs = s.dregs := rfl
@[simp] theorem State.setByte_flags (s : State) (a : Word) (v : Byte) : (s.setByte a v).flags = s.flags := rfl
@[simp] theorem State.setByte_itstate (s : State) (a : Word) (v : Byte) : (s.setByte a v).itstate = s.itstate := rfl
@[simp] theorem State.setByte_t (s : State) (a : Word) (v : Byte) : (s.setByte a v).t = s.t := rfl
@[simp] theorem State.setByte_cpacr (s : State) (a : Word) (v : Byte) : (s.setByte a v).cpacr = s.cpacr := rfl
@[simp] theorem State.setByte_nsacr (s : State) (a : Word) (v : Byte) : (s.setByte a v).nsacr = s.nsacr := rfl
@[simp] theorem State.setByte_hcptr (s : State) (a : Word) (v : Byte) : (s.setByte a v).hcptr = s.hcptr := rfl
@[simp] theorem State.setByte_fpexc (s : State) (a : Word) (v : Byte) : (s.setByte a v).fpexc = s.fpexc := rfl
@[simp] theorem State.setByte_security (s : State) (a : Word) (v : Byte) : (s.setByte a v).security = s.security := rfl
@[simp] theorem State.setByte_mode (s : State) (a : Word) (v : Byte) : (s.setByte a v).mode = s.mode := rfl
@[simp] theorem State.setByte_dit (s : State) (a : Word) (v : Byte) : (s.setByte a v).dit = s.dit := rfl
@[simp] theorem State.setByte_bigEndianData (s : State) (a : Word) (v : Byte) : (s.setByte a v).bigEndianData = s.bigEndianData := rfl
@[simp] theorem State.setByte_strictAlign (s : State) (a : Word) (v : Byte) : (s.setByte a v).strictAlign = s.strictAlign := rfl
@[simp] theorem State.setByte_mem (s : State) (a : Word) (v : Byte) : (s.setByte a v).mem = Memory.write s.mem a.toNat v := rfl
@[simp] theorem State.setByte_condIn (s : State) (a : Word) (v : Byte) : (s.setByte a v).condIn = s.condIn := rfl
@[simp] theorem State.setByte_params (s : State) (a : Word) (v : Byte) : (s.setByte a v).params = s.params := rfl
@[simp] theorem State.setByte_draws (s : State) (a : Word) (v : Byte) : (s.setByte a v).draws = s.draws := rfl

@[simp] theorem State.tick_regs (s : State) : (s.tick).regs = s.regs := rfl
@[simp] theorem State.tick_pc (s : State) : (s.tick).pc = s.pc := rfl
@[simp] theorem State.tick_dregs (s : State) : (s.tick).dregs = s.dregs := rfl
@[simp] theorem State.tick_flags (s : State) : (s.tick).flags = s.flags := rfl
@[simp] theorem State.tick_itstate (s : State) : (s.tick).itstate = s.itstate := rfl
@[simp] theorem State.tick_t (s : State) : (s.tick).t = s.t := rfl
@[simp] theorem State.tick_cpacr (s : State) : (s.tick).cpacr = s.cpacr := rfl
@[simp] theorem State.tick_nsacr (s : State) : (s.tick).nsacr = s.nsacr := rfl
@[simp] theorem State.tick_hcptr (s : State) : (s.tick).hcptr = s.hcptr := rfl
@[simp] theorem State.tick_fpexc (s : State) : (s.tick).fpexc = s.fpexc := rfl
@[simp] theorem State.tick_security (s : State) : (s.tick).security = s.security := rfl
@[simp] theorem State.tick_mode (s : State) : (s.tick).mode = s.mode := rfl
@[simp] theorem State.tick_dit (s : State) : (s.tick).dit = s.dit := rfl
@[simp] theorem State.tick_bigEndianData (s : State) : (s.tick).bigEndianData = s.bigEndianData := rfl
@[simp] theorem State.tick_strictAlign (s : State) : (s.tick).strictAlign = s.strictAlign := rfl
@[simp] theorem State.tick_mem (s : State) : (s.tick).mem = s.mem := rfl
@[simp] theorem State.tick_condIn (s : State) : (s.tick).condIn = s.condIn := rfl
@[simp] theorem State.tick_params (s : State) : (s.tick).params = s.params := rfl
@[simp] theorem State.tick_draws (s : State) : (s.tick).draws = s.draws + 1 := rfl

/-! `advance` writes `pc`; `itStep` writes `itstate`, or `condIn` and `draws`. -/

@[simp] theorem State.itStep_regs (s : State) : s.itStep.regs = s.regs := by
  unfold State.itStep; split <;> rfl
@[simp] theorem State.itStep_pc (s : State) : s.itStep.pc = s.pc := by
  unfold State.itStep; split <;> rfl
@[simp] theorem State.itStep_dregs (s : State) : s.itStep.dregs = s.dregs := by
  unfold State.itStep; split <;> rfl
@[simp] theorem State.itStep_flags (s : State) : s.itStep.flags = s.flags := by
  unfold State.itStep; split <;> rfl
@[simp] theorem State.itStep_t (s : State) : s.itStep.t = s.t := by
  unfold State.itStep; split <;> rfl
@[simp] theorem State.itStep_cpacr (s : State) : s.itStep.cpacr = s.cpacr := by
  unfold State.itStep; split <;> rfl
@[simp] theorem State.itStep_nsacr (s : State) : s.itStep.nsacr = s.nsacr := by
  unfold State.itStep; split <;> rfl
@[simp] theorem State.itStep_hcptr (s : State) : s.itStep.hcptr = s.hcptr := by
  unfold State.itStep; split <;> rfl
@[simp] theorem State.itStep_fpexc (s : State) : s.itStep.fpexc = s.fpexc := by
  unfold State.itStep; split <;> rfl
@[simp] theorem State.itStep_security (s : State) : s.itStep.security = s.security := by
  unfold State.itStep; split <;> rfl
@[simp] theorem State.itStep_mode (s : State) : s.itStep.mode = s.mode := by
  unfold State.itStep; split <;> rfl
@[simp] theorem State.itStep_dit (s : State) : s.itStep.dit = s.dit := by
  unfold State.itStep; split <;> rfl
@[simp] theorem State.itStep_bigEndianData (s : State) : s.itStep.bigEndianData = s.bigEndianData := by
  unfold State.itStep; split <;> rfl
@[simp] theorem State.itStep_strictAlign (s : State) : s.itStep.strictAlign = s.strictAlign := by
  unfold State.itStep; split <;> rfl
@[simp] theorem State.itStep_mem (s : State) : s.itStep.mem = s.mem := by
  unfold State.itStep; split <;> rfl
@[simp] theorem State.itStep_params (s : State) : s.itStep.params = s.params := by
  unfold State.itStep; split <;> rfl

@[simp] theorem State.advance_regs (s : State) : s.advance.regs = s.regs := by
  unfold State.advance; split <;> simp
@[simp] theorem State.advance_pc (s : State) : s.advance.pc = s.pc + 4 := by
  unfold State.advance; split <;> simp
@[simp] theorem State.advance_dregs (s : State) : s.advance.dregs = s.dregs := by
  unfold State.advance; split <;> simp
@[simp] theorem State.advance_flags (s : State) : s.advance.flags = s.flags := by
  unfold State.advance; split <;> simp
@[simp] theorem State.advance_t (s : State) : s.advance.t = s.t := by
  unfold State.advance; split <;> simp
@[simp] theorem State.advance_cpacr (s : State) : s.advance.cpacr = s.cpacr := by
  unfold State.advance; split <;> simp
@[simp] theorem State.advance_nsacr (s : State) : s.advance.nsacr = s.nsacr := by
  unfold State.advance; split <;> simp
@[simp] theorem State.advance_hcptr (s : State) : s.advance.hcptr = s.hcptr := by
  unfold State.advance; split <;> simp
@[simp] theorem State.advance_fpexc (s : State) : s.advance.fpexc = s.fpexc := by
  unfold State.advance; split <;> simp
@[simp] theorem State.advance_security (s : State) : s.advance.security = s.security := by
  unfold State.advance; split <;> simp
@[simp] theorem State.advance_mode (s : State) : s.advance.mode = s.mode := by
  unfold State.advance; split <;> simp
@[simp] theorem State.advance_dit (s : State) : s.advance.dit = s.dit := by
  unfold State.advance; split <;> simp
@[simp] theorem State.advance_bigEndianData (s : State) : s.advance.bigEndianData = s.bigEndianData := by
  unfold State.advance; split <;> simp
@[simp] theorem State.advance_strictAlign (s : State) : s.advance.strictAlign = s.strictAlign := by
  unfold State.advance; split <;> simp
@[simp] theorem State.advance_mem (s : State) : s.advance.mem = s.mem := by
  unfold State.advance; split <;> simp
@[simp] theorem State.advance_params (s : State) : s.advance.params = s.params := by
  unfold State.advance; split <;> simp

theorem State.itStep_itstate (s : State) :
    s.itStep.itstate = if s.params.condInput = .fromITSTATE then itAdvance s.itstate else s.itstate := by
  unfold State.itStep; split <;> simp_all

/-- What `advance` does to `ITSTATE` (R24, R106). -/
theorem State.advance_itstate (s : State) :
    s.advance.itstate = if s.t = true ∧ s.params.condInput = .fromITSTATE then itAdvance s.itstate else s.itstate := by
  unfold State.advance; split <;> simp_all [State.itStep_itstate]

/-- In A32 state `advance` is the advance of `pc` alone (R106). -/
theorem State.advance_a32 (s : State) (h : s.t = false) : s.advance = { s with pc := s.pc + 4 } := by
  simp [State.advance, h]

/-- In T32 state with the condition from `ITSTATE`, `advance` is the advance of `pc` and of `ITSTATE` (R106). -/
theorem State.advance_t32 (s : State) (h : s.t = true) (hc : s.params.condInput = .fromITSTATE) :
    s.advance = { s with pc := s.pc + 4, itstate := itAdvance s.itstate } := by
  simp [State.advance, State.itStep, h, hc]

/-- What `advance` changes: `pc`, `ITSTATE`, the condition input and the count of draws, and nothing else (R106). -/
theorem State.advance_eq (s : State) :
    s.advance = { s with pc := s.advance.pc, itstate := s.advance.itstate, condIn := s.advance.condIn,
                         draws := s.advance.draws } := by
  unfold State.advance State.itStep; split <;> [split; skip] <;> rfl

end Sys2Proof.Machine
end

