-- ==== Sys2Proof/Laws/Memory.lean ====
section
/-! SUPPORT. The laws of memory: read after write, and that every memory operation keeps the canonical form. -/

namespace Sys2Proof.Machine

@[simp] theorem Memory.read_nil (x : Nat) : Memory.read [] x = unlistedByte := rfl

@[simp] theorem Memory.read_cons (a : Nat) (b : Byte) (m : Memory) (x : Nat) :
    Memory.read ((a, b) :: m) x = if a = x then b else Memory.read m x := rfl

theorem Memory.wf_cons (a : Nat) (b : Byte) (m : Memory) :
    Memory.wf ((a, b) :: m) = true ↔
      a < 2 ^ 32 ∧ b ≠ unlistedByte ∧ (∀ cell ∈ m, a < cell.1) ∧ Memory.wf m = true := by
  simp [Memory.wf, and_assoc]

/-- An address below every listed one reads as unlisted. -/
theorem Memory.read_below (m : Memory) (x : Nat) (h : ∀ cell ∈ m, x < cell.1) : Memory.read m x = unlistedByte := by
  induction m with
  | nil => rfl
  | cons c m ih =>
    obtain ⟨a, b⟩ := c
    have ha : x < a := h (a, b) (by simp)
    rw [Memory.read_cons, if_neg (by omega)]
    exact ih fun cell hc => h cell (by simp [hc])

/-- Writing one byte and reading another leaves it (no canonical form needed). -/
theorem Memory.read_write_ne (m : Memory) (x y : Nat) (v : Byte) (h : y ≠ x) :
    Memory.read (Memory.write m x v) y = Memory.read m y := by
  induction m with
  | nil => unfold Memory.write; split <;> simp_all [eq_comm]
  | cons c m ih =>
    obtain ⟨a, b⟩ := c
    unfold Memory.write
    split_ifs <;> simp_all [eq_comm]

/-- In the canonical form, a byte reads as it was last written (R48). -/
theorem Memory.read_write_same (m : Memory) (x : Nat) (v : Byte) (h : Memory.wf m = true) :
    Memory.read (Memory.write m x v) x = v := by
  induction m with
  | nil => unfold Memory.write; split <;> simp_all
  | cons c m ih =>
    obtain ⟨a, b⟩ := c
    obtain ⟨_, _, hlt, hm⟩ := (Memory.wf_cons a b m).1 h
    have below : x ≤ a → Memory.read m x = unlistedByte := fun hx =>
      Memory.read_below m x fun cell hc => lt_of_le_of_lt hx (hlt cell hc)
    unfold Memory.write
    split_ifs with h1 h2 h3 h4
    · rw [Memory.read_cons, if_neg (by omega), below (by omega), h2]
    · simp
    · rw [below (by omega), h4]
    · simp
    · rw [Memory.read_cons, if_neg (by omega), ih hm]

/-- What is listed after a write was listed before or is the byte written. -/
theorem Memory.mem_write (m : Memory) (x : Nat) (v : Byte) (cell : Host.Cell) (h : cell ∈ Memory.write m x v) :
    cell ∈ m ∨ cell = (x, v) := by
  induction m with
  | nil => unfold Memory.write at h; split at h <;> simp_all
  | cons c m ih =>
    obtain ⟨a, b⟩ := c
    unfold Memory.write at h
    split_ifs at h <;> simp_all <;> tauto

/-- A write inside the address space keeps the canonical form. -/
theorem Memory.write_wf (m : Memory) (x : Nat) (v : Byte) (hx : x < 2 ^ 32) (h : Memory.wf m = true) :
    Memory.wf (Memory.write m x v) = true := by
  induction m with
  | nil =>
    unfold Memory.write
    split
    · rfl
    · exact (Memory.wf_cons x v []).2 ⟨hx, by assumption, by simp, rfl⟩
  | cons c m ih =>
    obtain ⟨a, b⟩ := c
    obtain ⟨ha, hb, hlt, hm⟩ := (Memory.wf_cons a b m).1 h
    unfold Memory.write
    split_ifs with h1 h2 h3 h4
    · exact h
    · refine (Memory.wf_cons x v _).2 ⟨hx, h2, ?_, h⟩
      intro cell hc
      rcases List.mem_cons.1 hc with rfl | hc
      · exact h1
      · exact lt_trans h1 (hlt cell hc)
    · exact hm
    · exact (Memory.wf_cons x v m).2 ⟨hx, h4, fun cell hc => h3 ▸ hlt cell hc, hm⟩
    · refine (Memory.wf_cons a b _).2 ⟨ha, hb, ?_, ih hm⟩
      intro cell hc
      rcases Memory.mem_write m x v cell hc with hc | rfl
      · exact hlt cell hc
      · show a < x
        omega

/-- Storing one byte keeps the canonical form: a `Word` address is inside the address space (R40). -/
theorem State.setByte_wf (s : State) (a : Word) (v : Byte) (h : Memory.wf s.mem = true) :
    Memory.wf (s.setByte a v).mem = true :=
  Memory.write_wf s.mem a.toNat v a.isLt h

theorem State.storeBytes_wf (s : State) (a : Word) (bs : List Byte) (h : Memory.wf s.mem = true) :
    Memory.wf (s.storeBytes a bs).mem = true := by
  induction bs generalizing s a with
  | nil => exact h
  | cons b bs ih => exact ih _ _ (State.setByte_wf s a b h)

theorem State.byte_setByte_same (s : State) (a : Word) (v : Byte) (h : Memory.wf s.mem = true) :
    (s.setByte a v).byte a = v :=
  Memory.read_write_same s.mem a.toNat v h

theorem State.byte_setByte_ne (s : State) (a b : Word) (v : Byte) (h : b ≠ a) : (s.setByte a v).byte b = s.byte b :=
  Memory.read_write_ne s.mem a.toNat b.toNat v fun e => h (BitVec.eq_of_toNat_eq e)

theorem reset_mem_wf : Memory.wf State.reset.mem = true := rfl

end Sys2Proof.Machine
end

