-- ==== Sys2Proof/Laws/Registers.lean ====
section
/-! SUPPORT. The laws of the register accessors, and that the reads of memory and the enable check depend on nothing that
a register update, a draw or the advance changes. -/

namespace Sys2Proof.Machine

/-! ### General-purpose registers -/

@[simp] theorem State.r_setR_same (s : State) (i : Nat) (v : Word) (h : i < 15) : (s.setR i v).r i = v := by
  simp [State.r, State.setR, h]

@[simp] theorem State.r_setR_ne (s : State) (i j : Nat) (v : Word) (h : i ≠ j) : (s.setR i v).r j = s.r j := by
  show (s.regs.setIfInBounds i v)[j]?.getD s.r15 = s.regs[j]?.getD s.r15
  rw [Vector.getElem?_setIfInBounds_ne h]

@[simp] theorem State.r_setD (s : State) (i j : Nat) (v : DWord) : (s.setD i v).r j = s.r j := rfl

@[simp] theorem State.r_tick (s : State) (j : Nat) : s.tick.r j = s.r j := rfl

/-- Below 15 a register is its own cell, which the advance of `pc` does not touch. -/
@[simp] theorem State.r_advance (s : State) (j : Nat) (h : j < 15) : s.advance.r j = s.r j := by
  simp [State.r, h]

theorem State.r_congr {s t : State} (hr : t.regs = s.regs) (hp : t.pc = s.pc) (ht : t.t = s.t) (j : Nat) :
    t.r j = s.r j := by
  simp [State.r, State.r15, hr, hp, ht]

theorem State.d_congr {s t : State} (hd : t.dregs = s.dregs) (j : Nat) : t.d j = s.d j := by
  simp [State.d, hd]

/-! ### SIMD&FP registers -/

@[simp] theorem State.d_setD_same (s : State) (i : Nat) (v : DWord) (h : i < 32) : (s.setD i v).d i = v := by
  simp [State.d, State.setD, h]

@[simp] theorem State.d_setD_ne (s : State) (i j : Nat) (v : DWord) (h : i ≠ j) : (s.setD i v).d j = s.d j := by
  simp [State.d, State.setD, h]

@[simp] theorem State.d_setR (s : State) (i j : Nat) (v : Word) : (s.setR i v).d j = s.d j := rfl

@[simp] theorem State.d_tick (s : State) (j : Nat) : s.tick.d j = s.d j := rfl

@[simp] theorem State.d_advance (s : State) (j : Nat) : s.advance.d j = s.d j := by simp [State.d]

/-! ### What the reads and the checks depend on -/

theorem State.byte_congr {s t : State} (h : t.mem = s.mem) (a : Word) : t.byte a = s.byte a := by
  simp [State.byte, h]

theorem State.readValue_congr {s t : State} (hm : t.mem = s.mem) (hb : t.bigEndianData = s.bigEndianData) (a : Word)
    (n : Nat) : t.readValue a n = s.readValue a n := by
  have : t.byte = s.byte := funext (State.byte_congr hm)
  simp [State.readValue, this, hb]

/-- A list of regions sees the Security state, the PE mode and the parameters alone (R31; notes/assumptions/10.md). -/
theorem State.memFault_congr {s t : State} (hr : s.params.memFault ≠ .uninterpreted) (hp : t.params = s.params)
    (hs : t.security = s.security) (hm : t.mode = s.mode) (a : Word) (n : Nat) : t.memFault a n = s.memFault a n := by
  unfold State.memFault
  rw [hp]
  split
  · rename_i rs _
    have : t.regionFault rs a n = s.regionFault rs a n := by
      funext b; simp [State.regionFault, regionCovers, hs, hm]
    rw [this]
  · contradiction

theorem State.readAbort_congr {s t : State} (hr : s.params.memFault ≠ .uninterpreted) (hp : t.params = s.params)
    (hs : t.security = s.security) (hm : t.mode = s.mode) (ha : t.strictAlign = s.strictAlign) (a : Word) (n : Nat) :
    t.readAbort a n = s.readAbort a n := by
  simp [State.readAbort, State.memFault_congr hr hp hs hm, ha]

/-- The enable check depends only on what `enableInputs` and the parameters hold (R28). -/
theorem State.advSIMDCheck_congr {s t : State} (hi : t.enableInputs = s.enableInputs) (hp : t.params = s.params) :
    t.advSIMDCheck = s.advSIMDCheck := by
  simp [State.advSIMDCheck, hi, hp]

@[simp] theorem State.byte_setR (s : State) (i : Nat) (v : Word) (x : Word) : (s.setR i v).byte x = s.byte x :=
  State.byte_congr (by simp) x

@[simp] theorem State.readValue_setR (s : State) (i : Nat) (v : Word) (x : Word) (n : Nat) : (s.setR i v).readValue x n = s.readValue x n :=
  State.readValue_congr (by simp) (by simp) x n

@[simp] theorem State.advSIMDCheck_setR (s : State) (i : Nat) (v : Word) : (s.setR i v).advSIMDCheck = s.advSIMDCheck :=
  State.advSIMDCheck_congr (by simp [State.enableInputs]) (by simp)

@[simp] theorem State.byte_setD (s : State) (i : Nat) (v : DWord) (x : Word) : (s.setD i v).byte x = s.byte x :=
  State.byte_congr (by simp) x

@[simp] theorem State.readValue_setD (s : State) (i : Nat) (v : DWord) (x : Word) (n : Nat) : (s.setD i v).readValue x n = s.readValue x n :=
  State.readValue_congr (by simp) (by simp) x n

@[simp] theorem State.advSIMDCheck_setD (s : State) (i : Nat) (v : DWord) : (s.setD i v).advSIMDCheck = s.advSIMDCheck :=
  State.advSIMDCheck_congr (by simp [State.enableInputs]) (by simp)

@[simp] theorem State.byte_tick (s : State) (x : Word) : (s.tick).byte x = s.byte x :=
  State.byte_congr (by simp) x

@[simp] theorem State.readValue_tick (s : State) (x : Word) (n : Nat) : (s.tick).readValue x n = s.readValue x n :=
  State.readValue_congr (by simp) (by simp) x n

/-- No answer of `MemFault` depends on the count of draws, the model's own. -/
@[simp] theorem State.readAbort_tick (s : State) (x : Word) (n : Nat) : (s.tick).readAbort x n = s.readAbort x n := rfl

@[simp] theorem State.advSIMDCheck_tick (s : State) : (s.tick).advSIMDCheck = s.advSIMDCheck :=
  State.advSIMDCheck_congr (by simp [State.enableInputs]) (by simp)

@[simp] theorem State.byte_advance (s : State) (x : Word) : (s.advance).byte x = s.byte x :=
  State.byte_congr (by simp) x

@[simp] theorem State.readValue_advance (s : State) (x : Word) (n : Nat) : (s.advance).readValue x n = s.readValue x n :=
  State.readValue_congr (by simp) (by simp) x n

@[simp] theorem State.advSIMDCheck_advance (s : State) : (s.advance).advSIMDCheck = s.advSIMDCheck :=
  State.advSIMDCheck_congr (by simp [State.enableInputs]) (by simp)

end Sys2Proof.Machine
end

