-- ==== Sys2Proof/Laws/Operands.lean ====
section
/-! SUPPORT. The laws of the Decode blocks' constants, of the lane write and of the write-back: what later proofs cite
instead of unfolding them. -/

namespace Sys2Proof.Machine

/-! ### The constants of a Decode block -/

/-- The ranges of the constants of every form (R64 to R67). -/
theorem operands_bounds (i : Instr) :
    ((operandsOf i).ebytes = 1 ∨ (operandsOf i).ebytes = 2 ∨ (operandsOf i).ebytes = 4) ∧
      ((operandsOf i).index + 1) * (operandsOf i).ebytes ≤ 8 ∧ ((operandsOf i).inc = 1 ∨ (operandsOf i).inc = 2) ∧
      (operandsOf i).d < 32 ∧ (operandsOf i).n < 16 ∧ (operandsOf i).m < 16 := by
  cases i <;> simp only [operandsOf, decode8, decode16, decode32] <;> refine ⟨by simp, ?_, ?_, ?_, ?_, ?_⟩ <;>
    first | omega | (split <;> simp) | simp

theorem legal8_operands (dvd : BitVec 5) (rn ia rm : BitVec 4) :
    legal8 dvd rn ia = true ↔ (decode8 dvd rn ia rm).reserved = false ∧ (decode8 dvd rn ia rm).n ≠ 15 ∧
      (decode8 dvd rn ia rm).d3 ≤ 31 := by
  have h0 : ia.extractLsb' 0 1 = 0#1 ↔ ia.getLsbD 0 = false := by revert ia; decide
  have hn : rn = 15#4 ↔ rn.toNat = 15 := by revert rn; decide
  simp only [legal8, decode8, Operands.d3, Operands.d2, h0, bne_eq_false_iff_eq]
  simp [hn, and_assoc]
  intros; omega

theorem legal16_operands (dvd : BitVec 5) (rn ia rm : BitVec 4) :
    legal16 dvd rn ia = true ↔ (decode16 dvd rn ia rm).reserved = false ∧ (decode16 dvd rn ia rm).n ≠ 15 ∧
      (decode16 dvd rn ia rm).d3 ≤ 31 := by
  have h0 : ia.extractLsb' 0 1 = 0#1 ↔ ia.getLsbD 0 = false := by revert ia; decide
  have h1 : ia.extractLsb' 1 1 = 0#1 ↔ ia.getLsbD 1 = false := by revert ia; decide
  have hn : rn = 15#4 ↔ rn.toNat = 15 := by revert rn; decide
  simp only [legal16, decode16, Operands.d3, Operands.d2, h0, h1, bne_eq_false_iff_eq]
  cases ia.getLsbD 1 <;> simp [hn, and_assoc]
  omega

theorem legal32_operands (dvd : BitVec 5) (rn ia rm : BitVec 4) :
    legal32 dvd rn ia = true ↔ (decode32 dvd rn ia rm).reserved = false ∧ (decode32 dvd rn ia rm).n ≠ 15 ∧
      (decode32 dvd rn ia rm).d3 ≤ 31 := by
  have h0 : ia.extractLsb' 0 2 = 0#2 ↔ ia.getLsbD 0 = false ∧ ia.getLsbD 1 = false := by revert ia; decide
  have h2 : ia.extractLsb' 2 1 = 0#1 ↔ ia.getLsbD 2 = false := by revert ia; decide
  have hn : rn = 15#4 ↔ rn.toNat = 15 := by revert rn; decide
  simp only [legal32, decode32, Operands.d3, Operands.d2, h0, h2, bne_eq_false_iff_eq]
  cases ia.getLsbD 2 <;> simp [hn, and_assoc]
  omega

/-- A well-formed instruction passes every decode test (R69, R70, R141). -/
theorem wellFormed_operands (i : Instr) (h : i.wellFormed = true) :
    (operandsOf i).reserved = false ∧ (operandsOf i).n ≠ 15 ∧ (operandsOf i).d3 ≤ 31 := by
  cases i <;> simp only [Instr.wellFormed, Bool.and_eq_true] at h <;>
    first
      | exact (legal8_operands _ _ _ _).1 h
      | exact (legal8_operands _ _ _ _).1 h.1
      | exact (legal16_operands _ _ _ _).1 h
      | exact (legal16_operands _ _ _ _).1 h.1
      | exact (legal32_operands _ _ _ _).1 h
      | exact (legal32_operands _ _ _ _).1 h.1

/-- An encodable instruction that passes the decode tests is well-formed. -/
theorem wellFormed_of_operands (i : Instr) (he : i.encodable = true) (hr : (operandsOf i).reserved = false)
    (hn : (operandsOf i).n ≠ 15) (hd : (operandsOf i).d3 ≤ 31) : i.wellFormed = true := by
  cases i <;> simp only [Instr.wellFormed, Instr.encodable, Bool.and_eq_true] at he ⊢ <;>
    first
      | exact (legal8_operands _ _ _ _).2 ⟨hr, hn, hd⟩
      | exact And.intro ((legal8_operands _ _ _ _).2 ⟨hr, hn, hd⟩) he
      | exact (legal16_operands _ _ _ _).2 ⟨hr, hn, hd⟩
      | exact And.intro ((legal16_operands _ _ _ _).2 ⟨hr, hn, hd⟩) he
      | exact (legal32_operands _ _ _ _).2 ⟨hr, hn, hd⟩
      | exact And.intro ((legal32_operands _ _ _ _).2 ⟨hr, hn, hd⟩) he

/-! ### Lanes -/

/-- What the lane write leaves in each bit (R11, R100). -/
theorem setElem_getLsbD (v : DWord) (e size : Nat) (x : BitVec size) (j : Nat) (hj : j < 64) :
    (setElem v e size x).getLsbD j =
      if size * e ≤ j ∧ j < size * e + size then x.getLsbD (j - size * e) else v.getLsbD j := by
  have hm : (BitVec.ofNat 64 (2 ^ size - 1)).getLsbD (j - size * e) = decide (j - size * e < size) := by
    rw [BitVec.getLsbD_ofNat, Nat.testBit_two_pow_sub_one]
    simp [show j - size * e < 64 by omega]
  unfold setElem
  simp only [BitVec.getLsbD_or, BitVec.getLsbD_and, BitVec.getLsbD_not, BitVec.getLsbD_shiftLeft, BitVec.getLsbD_setWidth,
    hm, hj, decide_true, Bool.true_and]
  have h64 : j - size * e < 64 := by omega
  by_cases h1 : j < size * e
  · simp [h1, show ¬ (size * e ≤ j) by omega]
  · by_cases h2 : j - size * e < size
    · simp [h1, h2, h64, show size * e ≤ j by omega, show j < size * e + size by omega]
    · have hx : x.getLsbD (j - size * e) = false := BitVec.getLsbD_of_ge x _ (by omega)
      simp [h1, h2, h64, show ¬ (j < size * e + size) by omega, hx]

/-- Stage 5 on the SIMD&FP registers: one lane of each of three distinct registers, every other register as it was
(R90, R100). -/
theorem loadLanes_d (c : Operands) (s : State) (hi : 1 ≤ c.inc) (h3 : c.d3 ≤ 31) (r : Nat) :
    (loadLanes c s).d r =
      if r = c.d then setElem (s.d c.d) c.index (8 * c.ebytes) (s.readValue (elemAddr c s 0) c.ebytes)
      else if r = c.d2 then setElem (s.d c.d2) c.index (8 * c.ebytes) (s.readValue (elemAddr c s 1) c.ebytes)
      else if r = c.d3 then setElem (s.d c.d3) c.index (8 * c.ebytes) (s.readValue (elemAddr c s 2) c.ebytes)
      else s.d r := by
  have e3 : c.d3 = c.d2 + c.inc := rfl
  have e2 : c.d2 = c.d + c.inc := rfl
  have l1 : c.d < 32 := by omega
  have l2 : c.d2 < 32 := by omega
  have l3 : c.d3 < 32 := by omega
  simp only [loadLanes, State.setLane]
  split_ifs with a b c' <;> first | subst a | subst b | subst c' | skip
  · rw [State.d_setD_ne _ _ _ _ (by omega), State.d_setD_ne _ _ _ _ (by omega), State.d_setD_same _ _ _ l1]
  · rw [State.d_setD_ne _ _ _ _ (by omega), State.d_setD_same _ _ _ l2, State.d_setD_ne _ _ _ _ (by omega)]
  · rw [State.d_setD_same _ _ _ l3, State.d_setD_ne _ _ _ _ (by omega), State.d_setD_ne _ _ _ _ (by omega)]
  · rw [State.d_setD_ne _ _ _ _ (by omega), State.d_setD_ne _ _ _ _ (by omega), State.d_setD_ne _ _ _ _ (by omega)]

/-- Stage 5 changes the SIMD&FP register file alone. -/
theorem loadLanes_eq (c : Operands) (s : State) : loadLanes c s = { s with dregs := (loadLanes c s).dregs } := rfl

@[simp] theorem loadLanes_r (c : Operands) (s : State) (k : Nat) : (loadLanes c s).r k = s.r k := rfl

/-! ### Write-back -/

/-- Stage 6 changes the general-purpose register file alone. -/
theorem writeBack_eq (c : Operands) (s : State) : writeBack c s = { s with regs := (writeBack c s).regs } := by
  unfold writeBack; split
  · split <;> rfl
  · rfl

@[simp] theorem writeBack_d (c : Operands) (s : State) (k : Nat) : (writeBack c s).d k = s.d k := by
  rw [writeBack_eq]; rfl

/-- Stage 6 on the general-purpose registers (R97, R98, R99). -/
theorem writeBack_r (c : Operands) (s : State) (hn : c.n < 15) (k : Nat) :
    (writeBack c s).r k =
      if k = c.n ∧ c.m ≠ 15 then
        if c.m = 13 then s.r c.n + BitVec.ofNat 32 (3 * c.ebytes) else s.r c.n + s.r c.m
      else s.r k := by
  unfold writeBack Operands.wback Operands.registerIndex
  by_cases hk : k = c.n
  · subst hk
    by_cases h15 : c.m = 15
    · simp [h15]
    · by_cases h13 : c.m = 13 <;> simp [h13, h15, hn]
  · by_cases h15 : c.m = 15
    · simp [h15]
    · by_cases h13 : c.m = 13 <;> simp [h13, h15, hk, State.r_setR_ne _ _ _ _ (Ne.symm hk)]

end Sys2Proof.Machine
end

