-- ==== Sys2Proof/Laws/Execute.lean ====
section
/-! SUPPORT. What one execution can do, said once: exec is the shared operation on the Decode block's constants, the
outcome of each stage, and the cases in which an execution answers a next state. Later proofs cite these. -/

namespace Sys2Proof.Machine

/-- Every form is the shared operation on its own constants (R90). -/
theorem exec_eq_execute (i : Instr) (s : State) : exec i s = execute i.instrSet (operandsOf i) s := by
  cases i <;> rfl

/-- In its own instruction-set state and with its condition passing, a form runs stages 2 to 7 (R90). -/
theorem exec_of_condition (i : Instr) (s : State) (hm : s.instrSet = i.instrSet)
    (hc : conditionPassed i.instrSet s = some true) : exec i s = conditionHeld (operandsOf i) s := by
  simp [exec_eq_execute, execute, hm, hc]

/-- In its own instruction-set state and with its condition failing, a form is skipped or stopped by stage 2 (R105). -/
theorem exec_of_condition_failed (i : Instr) (s : State) (hm : s.instrSet = i.instrSet)
    (hc : conditionPassed i.instrSet s = some false) : exec i s = conditionFailed (operandsOf i) s := by
  simp [exec_eq_execute, execute, hm, hc]

/-- A well-formed instruction passes stage 2. -/
theorem decodeTests_of_wellFormed (i : Instr) (s : State) (h : i.wellFormed = true) :
    decodeTests (operandsOf i) s = none := by
  obtain ⟨hr, hn, hd⟩ := wellFormed_operands i h
  simp [decodeTests, hr, hn, show ¬ 31 < (operandsOf i).d3 by omega]

theorem enableFault_eq_none (s : State) : enableFault s = none ↔ s.advSIMDCheck = .enabled := by
  unfold enableFault; split <;> simp_all

/-- With Advanced SIMD enabled and no read aborting, a well-formed instruction whose condition passes completes (R90,
R141). -/
theorem exec_completes (i : Instr) (s : State) (hm : s.instrSet = i.instrSet)
    (hc : conditionPassed i.instrSet s = some true) (hw : i.wellFormed = true) (he : s.advSIMDCheck = .enabled)
    (ha : readAborts (operandsOf i) s = []) : exec i s = .next (completed (operandsOf i) s) := by
  simp [exec_of_condition i s hm hc, conditionHeld, decodeTests_of_wellFormed i s hw, checkReadWrite,
    (enableFault_eq_none s).2 he, readAndWrite, ha]

/-- No read aborts exactly when none of the three does (R123). -/
theorem readAborts_eq_nil (c : Operands) (s : State) :
    readAborts c s = [] ↔ ∀ k < 3, s.readAbort (elemAddr c s k) c.ebytes = none := by
  constructor
  · intro h k hk
    have hk' : k ∈ [0, 1, 2] := by simp; omega
    exact List.filterMap_eq_nil_iff.1 h k hk'
  · intro h
    refine List.filterMap_eq_nil_iff.2 fun k hk => h k ?_
    simp at hk; omega

/-- Every abort in the list is one of the three reads' (R124). -/
theorem mem_readAborts (c : Operands) (s : State) (info : FaultInfo) (h : info ∈ readAborts c s) :
    ∃ k < 3, s.readAbort (elemAddr c s k) c.ebytes = some info := by
  obtain ⟨k, hk, he⟩ := List.mem_filterMap.1 h
  exact ⟨k, by simp at hk; omega, he⟩

/-- The Data Abort that stage 4 raises reports one of the aborting reads and leaves `abortState` (R124, R128). -/
theorem raiseDataAbort_eq (c : Operands) (s : State) (i : FaultInfo) (is : List FaultInfo)
    (h : readAborts c s = i :: is) :
    ∃ info ∈ readAborts c s, raiseDataAbort i is c s = .fault (.dataAbort info (abortState c s)) := by
  refine ⟨_, ?_, rfl⟩
  have hlt : Config.freeAbort s.draws % (is.length + 1) < (i :: is).length := by
    simpa using Nat.mod_lt _ (Nat.succ_pos is.length)
  rw [h, List.getD_eq_getElem _ _ hlt]
  exact List.getElem_mem hlt

/-- The cases in which a permitted behaviour for `d3 > 31` answers a next state (R103). -/
theorem doD3_next (b : D3Behaviour) (c : Operands) (s t : State) (h : doD3 b c s = .next t) :
    (b = .nop ∧ t = s.advance) ∨ (b = .unknownRegs ∧ t = unknownRegs c s) := by
  cases b <;> simp only [doD3, raise] at h
  · cases h
  · cases h; simp
  · split at h
    · cases h; simp
    · split at h <;> cases h; simp

/-- The cases in which `d3 > 31` answers a next state, after no draw or one (R103). -/
theorem d3Above31_next (c : Operands) (s t : State) (h : d3Above31 c s = .next t) :
    ∃ u, (u = s ∨ u = s.tick) ∧ (t = u.advance ∨ t = unknownRegs c u) := by
  unfold d3Above31 at h
  split at h
  · cases h
  all_goals
    obtain ⟨_, rfl⟩ | ⟨_, rfl⟩ := doD3_next _ _ _ _ h
    all_goals first
      | exact ⟨s, .inl rfl, by simp⟩
      | exact ⟨s.tick, .inr rfl, by simp⟩

/-- When stage 2 stops an instruction with a next state, `n` is not 15 and `d3 > 31` (R72, R103). -/
theorem decodeTests_next (c : Operands) (s t : State) (h : decodeTests c s = some (.next t)) :
    c.reserved = false ∧ c.n ≠ 15 ∧ 31 < c.d3 ∧ d3Above31 c s = .next t := by
  unfold decodeTests raise at h
  split_ifs at h <;> simp_all

theorem decodeTests_eq_none (c : Operands) (s : State) :
    decodeTests c s = none ↔ c.reserved = false ∧ c.n ≠ 15 ∧ c.d3 ≤ 31 := by
  unfold decodeTests
  split_ifs <;> simp_all

/-- When stages 3 to 7 answer a next state (R90). -/
theorem checkReadWrite_next (c : Operands) (s t : State) (h : checkReadWrite c s = .next t) :
    s.advSIMDCheck = .enabled ∧ readAborts c s = [] ∧ t = completed c s := by
  unfold checkReadWrite at h
  split at h
  · cases h
  · rename_i he
    unfold readAndWrite at h
    split at h
    · cases h; exact ⟨(enableFault_eq_none s).1 he, by assumption, rfl⟩
    · cases h

/-- THE INVERSION LEMMA: when an execution answers a next state, it is the advance alone (`Skipped`, or the NOP permitted
for `d3 > 31`), the registers-UNKNOWN behaviour, in both cases after at most two draws, or `Completed` (R90, R103, R105). -/
theorem execute_next (set : InstrSet) (c : Operands) (s t : State) (h : execute set c s = .next t) :
    (∃ u, (u = s ∨ u = s.tick ∨ u = s.tick.tick) ∧
        (t = u.advance ∨ (t = unknownRegs c u ∧ c.reserved = false ∧ c.n ≠ 15 ∧ 31 < c.d3))) ∨
      (t = completed c s ∧ conditionPassed set s = some true ∧ decodeTests c s = none ∧ s.advSIMDCheck = .enabled ∧
        readAborts c s = []) := by
  unfold execute at h
  split at h
  · split at h
    · cases h
    · rename_i hc
      unfold conditionHeld at h
      split at h
      · rename_i o ho
        subst h
        obtain ⟨hr, hn, h3, hd⟩ := decodeTests_next _ _ _ ho
        obtain ⟨u, hu, ht⟩ := d3Above31_next _ _ _ hd
        exact .inl ⟨u, by tauto, by tauto⟩
      · rename_i hn
        obtain ⟨he, ha, rfl⟩ := checkReadWrite_next _ _ _ h
        exact .inr ⟨rfl, hc, hn, he, ha⟩
    · unfold conditionFailed at h
      split at h
      · cases h; exact .inl ⟨s, by simp, by simp⟩
      · rename_i o ho
        split at h
        · cases h; exact .inl ⟨s.tick, by simp, by simp⟩
        · subst h
          obtain ⟨hr, hn, h3, hd⟩ := decodeTests_next _ _ _ ho
          obtain ⟨u, hu, ht⟩ := d3Above31_next _ _ _ hd
          exact .inl ⟨u, by tauto, by tauto⟩
  · cases h

/-- The registers-UNKNOWN behaviour writes the two register files alone (R103). -/
theorem drawnRegs_eq (c : Operands) (s : State) :
    drawnRegs c s = { s with dregs := (drawnRegs c s).dregs, regs := (drawnRegs c s).regs } := by
  unfold drawnRegs; simp only []; split <;> rfl

/-- It leaves every general-purpose register but a written-back base (R103). -/
theorem drawnRegs_r (c : Operands) (s : State) (k : Nat) (h : k ≠ c.n ∨ c.m = 15) : (drawnRegs c s).r k = s.r k := by
  have base : ({ s with dregs := Vector.ofFn fun r : Fin 32 => Config.freeD s.draws r.val } : State).r k = s.r k :=
    State.r_congr (by rfl) (by rfl) (by rfl) k
  unfold drawnRegs
  simp only []
  split
  · rename_i hw
    have h15 : c.m ≠ 15 := by simpa [Operands.wback] using hw
    rw [State.r_setR_ne _ _ _ _ fun e => (h.resolve_right h15) e.symm, base]
  · exact base

/-- `Completed` writes the two register files and the advance (R34). -/
theorem completed_eq (c : Operands) (s : State) :
    completed c s = ({ s with dregs := (loadLanes c s).dregs, regs := (writeBack c s).regs } : State).advance := by
  unfold completed writeBack
  split
  · split <;> rfl
  · rfl

/-- What a `Completed` execution leaves in the SIMD&FP registers is what stage 5 wrote (R90). -/
theorem completed_d (c : Operands) (s : State) (r : Nat) : (completed c s).d r = (loadLanes c s).d r := by
  unfold completed; rw [State.d_advance, writeBack_d]

/-- What a `Completed` execution leaves in the general-purpose registers is what stage 6 wrote (R90). -/
theorem completed_r (c : Operands) (s : State) (k : Nat) (hk : k < 15) : (completed c s).r k = (writeBack c s).r k := by
  rw [completed_eq, State.r_advance _ _ hk]
  simp [State.r, hk]

/-- THE FRAME: a next state differs from the one before in the register files, `pc`, `ITSTATE`, the condition input and the
count of draws alone (R21, R23, R25, R32, R36). -/
theorem exec_next_eq (i : Instr) (s t : State) (h : exec i s = .next t) :
    t = { s with regs := t.regs, dregs := t.dregs, pc := t.pc, itstate := t.itstate, condIn := t.condIn,
                 draws := t.draws } := by
  rw [exec_eq_execute] at h
  rcases execute_next _ _ _ _ h with ⟨u, hu, ht⟩ | ⟨ht, _⟩
  · have hs : u = { s with draws := u.draws } := by rcases hu with h | h | h <;> rw [h] <;> rfl
    rcases ht with ht | ⟨ht, _⟩
    · rw [ht, State.advance_eq, hs]
    · rw [ht]; unfold unknownRegs; rw [State.advance_eq, drawnRegs_eq, hs]; rfl
  · rw [ht, completed_eq, State.advance_eq]

theorem enableFault_tick (s : State) : enableFault s.tick = enableFault s := by simp [enableFault]

/-- The two exceptions of stage 3 (R122). -/
theorem enableFault_cases (s : State) (f : Fault) (h : enableFault s = some f) :
    (f = .undefined .enableCheck ∧ s.advSIMDCheck = .undefined) ∨
      (f = .hypTrapAdvSIMD ∧ s.advSIMDCheck = .hypTrap) := by
  unfold enableFault at h; split at h <;> cases h <;> simp_all

/-- The exceptions of `d3 > 31` (R103). -/
theorem d3Above31_fault (c : Operands) (s : State) (f : Fault) (h : d3Above31 c s = .fault f) :
    f = .undefined .cuD3 ∨ enableFault s = some f := by
  have one : ∀ b u, doD3 b c u = .fault f → f = .undefined .cuD3 ∨ enableFault u = some f := by
    intro b u h
    cases b <;> simp only [doD3, raise] at h
    · cases h; simp
    · cases h
    · split at h
      · cases h
      · split at h <;> cases h; simp_all
  unfold d3Above31 at h
  split at h
  · cases h
  all_goals have := one _ _ h; simpa [enableFault_tick] using this

/-- The exceptions of stage 2 (R121, R103). -/
theorem decodeTests_fault (c : Operands) (s : State) (f : Fault) (h : decodeTests c s = some (.fault f)) :
    (f = .undefined .indexAlign ∧ c.reserved = true) ∨ f = .undefined .cuD3 ∨ enableFault s = some f := by
  unfold decodeTests raise at h
  split_ifs at h
  · simp_all
  · cases h
  · injection h with h; exact .inr (d3Above31_fault c s f h)

/-- THE OTHER INVERSION LEMMA: the exceptions in which an execution can end, and when (R120, R124). -/
theorem execute_fault (set : InstrSet) (c : Operands) (s : State) (f : Fault) (h : execute set c s = .fault f) :
    (f = .undefined .indexAlign ∧ c.reserved = true) ∨ f = .undefined .cuD3 ∨ enableFault s = some f ∨
      ∃ info, f = .dataAbort info (abortState c s) ∧ info ∈ readAborts c s ∧ conditionPassed set s = some true ∧
        decodeTests c s = none ∧ enableFault s = none := by
  unfold execute at h
  split at h
  · split at h
    · cases h
    · rename_i hc
      unfold conditionHeld at h
      split at h
      · rename_i ho; subst h; have := decodeTests_fault c s f ho; tauto
      · rename_i hn
        unfold checkReadWrite at h
        split at h
        · rename_i he; unfold raise at h; cases h; simp [he]
        · rename_i he
          unfold readAndWrite at h
          split at h
          · cases h
          · rename_i i is hr
            obtain ⟨info, hi, e⟩ := raiseDataAbort_eq c s i is hr
            rw [e] at h; cases h
            exact .inr (.inr (.inr ⟨info, rfl, hi, hc, hn, he⟩))
    · unfold conditionFailed at h
      split at h
      · cases h
      · rename_i ho
        split at h
        · cases h
        · subst h; have := decodeTests_fault c s.tick f ho; rw [enableFault_tick] at this; tauto
  · cases h

end Sys2Proof.Machine
end

