-- ==== Sys2Proof/Laws/PerInstr.lean ====
section
/-! SUPPORT. The family RowMatch: every instruction's word, under its row's mask in spec/opcode_table.json, is its row's
match value. -/

namespace Sys2Proof.Laws

/-- `w` is in the row of the table with this mask and match value. -/
def RowMatch.InRow (mask value w : Word) : Prop := w &&& mask = value

/-- The mask and the match value of each constructor's row, copied from spec/opcode_table.json. -/
def RowMatch.Statement (i : Instr) : Prop :=
  match i with
  | .vld3x8A1Off _ _ _ => RowMatch.InRow 0xFFB00F0F#32 0xF4A0020F#32 (encode i)
  | .vld3x8A1PostImm _ _ _ => RowMatch.InRow 0xFFB00F0F#32 0xF4A0020D#32 (encode i)
  | .vld3x8A1PostReg _ _ _ _ => RowMatch.InRow 0xFFB00F00#32 0xF4A00200#32 (encode i)
  | .vld3x16A2Off _ _ _ => RowMatch.InRow 0xFFB00F0F#32 0xF4A0060F#32 (encode i)
  | .vld3x16A2PostImm _ _ _ => RowMatch.InRow 0xFFB00F0F#32 0xF4A0060D#32 (encode i)
  | .vld3x16A2PostReg _ _ _ _ => RowMatch.InRow 0xFFB00F00#32 0xF4A00600#32 (encode i)
  | .vld3x32A3Off _ _ _ => RowMatch.InRow 0xFFB00F0F#32 0xF4A00A0F#32 (encode i)
  | .vld3x32A3PostImm _ _ _ => RowMatch.InRow 0xFFB00F0F#32 0xF4A00A0D#32 (encode i)
  | .vld3x32A3PostReg _ _ _ _ => RowMatch.InRow 0xFFB00F00#32 0xF4A00A00#32 (encode i)
  | .vld3x8T1Off _ _ _ => RowMatch.InRow 0xFFB00F0F#32 0xF9A0020F#32 (encode i)
  | .vld3x8T1PostImm _ _ _ => RowMatch.InRow 0xFFB00F0F#32 0xF9A0020D#32 (encode i)
  | .vld3x8T1PostReg _ _ _ _ => RowMatch.InRow 0xFFB00F00#32 0xF9A00200#32 (encode i)
  | .vld3x16T2Off _ _ _ => RowMatch.InRow 0xFFB00F0F#32 0xF9A0060F#32 (encode i)
  | .vld3x16T2PostImm _ _ _ => RowMatch.InRow 0xFFB00F0F#32 0xF9A0060D#32 (encode i)
  | .vld3x16T2PostReg _ _ _ _ => RowMatch.InRow 0xFFB00F00#32 0xF9A00600#32 (encode i)
  | .vld3x32T3Off _ _ _ => RowMatch.InRow 0xFFB00F0F#32 0xF9A00A0F#32 (encode i)
  | .vld3x32T3PostImm _ _ _ => RowMatch.InRow 0xFFB00F0F#32 0xF9A00A0D#32 (encode i)
  | .vld3x32T3PostReg _ _ _ _ => RowMatch.InRow 0xFFB00F00#32 0xF9A00A00#32 (encode i)

theorem RowMatch.bits (set : InstrSet) (size : BitVec 2) (dvd : BitVec 5) (rn ia rm : BitVec 4) :
    wordOfFields set size dvd rn ia rm &&& 0xFFB00F00#32 = wordOfFields set size 0 0 0 0 := by
  apply BitVec.eq_of_getLsbD_eq
  intro i hi
  simp only [wordOfFields, BitVec.getLsbD_append, BitVec.getLsbD_extractLsb', BitVec.getLsbD_and]
  interval_cases i <;> simp

theorem RowMatch.bitsRm (set : InstrSet) (size : BitVec 2) (dvd : BitVec 5) (rn ia rm : BitVec 4) :
    wordOfFields set size dvd rn ia rm &&& 0xFFB00F0F#32 = wordOfFields set size 0 0 0 rm := by
  apply BitVec.eq_of_getLsbD_eq
  intro i hi
  simp only [wordOfFields, BitVec.getLsbD_append, BitVec.getLsbD_extractLsb', BitVec.getLsbD_and]
  interval_cases i <;> simp

theorem RowMatch.vld3x8A1Off (dvd : BitVec 5) (rn ia : BitVec 4) : RowMatch.Statement (.vld3x8A1Off dvd rn ia) := by
  show encode _ &&& _ = _
  exact (RowMatch.bitsRm _ _ dvd rn ia _).trans (by decide)

theorem RowMatch.vld3x8A1PostImm (dvd : BitVec 5) (rn ia : BitVec 4) : RowMatch.Statement (.vld3x8A1PostImm dvd rn ia) := by
  show encode _ &&& _ = _
  exact (RowMatch.bitsRm _ _ dvd rn ia _).trans (by decide)

theorem RowMatch.vld3x8A1PostReg (dvd : BitVec 5) (rn ia rm : BitVec 4) : RowMatch.Statement (.vld3x8A1PostReg dvd rn ia rm) := by
  show encode _ &&& _ = _
  exact (RowMatch.bits _ _ dvd rn ia _).trans (by decide)

theorem RowMatch.vld3x16A2Off (dvd : BitVec 5) (rn ia : BitVec 4) : RowMatch.Statement (.vld3x16A2Off dvd rn ia) := by
  show encode _ &&& _ = _
  exact (RowMatch.bitsRm _ _ dvd rn ia _).trans (by decide)

theorem RowMatch.vld3x16A2PostImm (dvd : BitVec 5) (rn ia : BitVec 4) : RowMatch.Statement (.vld3x16A2PostImm dvd rn ia) := by
  show encode _ &&& _ = _
  exact (RowMatch.bitsRm _ _ dvd rn ia _).trans (by decide)

theorem RowMatch.vld3x16A2PostReg (dvd : BitVec 5) (rn ia rm : BitVec 4) : RowMatch.Statement (.vld3x16A2PostReg dvd rn ia rm) := by
  show encode _ &&& _ = _
  exact (RowMatch.bits _ _ dvd rn ia _).trans (by decide)

theorem RowMatch.vld3x32A3Off (dvd : BitVec 5) (rn ia : BitVec 4) : RowMatch.Statement (.vld3x32A3Off dvd rn ia) := by
  show encode _ &&& _ = _
  exact (RowMatch.bitsRm _ _ dvd rn ia _).trans (by decide)

theorem RowMatch.vld3x32A3PostImm (dvd : BitVec 5) (rn ia : BitVec 4) : RowMatch.Statement (.vld3x32A3PostImm dvd rn ia) := by
  show encode _ &&& _ = _
  exact (RowMatch.bitsRm _ _ dvd rn ia _).trans (by decide)

theorem RowMatch.vld3x32A3PostReg (dvd : BitVec 5) (rn ia rm : BitVec 4) : RowMatch.Statement (.vld3x32A3PostReg dvd rn ia rm) := by
  show encode _ &&& _ = _
  exact (RowMatch.bits _ _ dvd rn ia _).trans (by decide)

theorem RowMatch.vld3x8T1Off (dvd : BitVec 5) (rn ia : BitVec 4) : RowMatch.Statement (.vld3x8T1Off dvd rn ia) := by
  show encode _ &&& _ = _
  exact (RowMatch.bitsRm _ _ dvd rn ia _).trans (by decide)

theorem RowMatch.vld3x8T1PostImm (dvd : BitVec 5) (rn ia : BitVec 4) : RowMatch.Statement (.vld3x8T1PostImm dvd rn ia) := by
  show encode _ &&& _ = _
  exact (RowMatch.bitsRm _ _ dvd rn ia _).trans (by decide)

theorem RowMatch.vld3x8T1PostReg (dvd : BitVec 5) (rn ia rm : BitVec 4) : RowMatch.Statement (.vld3x8T1PostReg dvd rn ia rm) := by
  show encode _ &&& _ = _
  exact (RowMatch.bits _ _ dvd rn ia _).trans (by decide)

theorem RowMatch.vld3x16T2Off (dvd : BitVec 5) (rn ia : BitVec 4) : RowMatch.Statement (.vld3x16T2Off dvd rn ia) := by
  show encode _ &&& _ = _
  exact (RowMatch.bitsRm _ _ dvd rn ia _).trans (by decide)

theorem RowMatch.vld3x16T2PostImm (dvd : BitVec 5) (rn ia : BitVec 4) : RowMatch.Statement (.vld3x16T2PostImm dvd rn ia) := by
  show encode _ &&& _ = _
  exact (RowMatch.bitsRm _ _ dvd rn ia _).trans (by decide)

theorem RowMatch.vld3x16T2PostReg (dvd : BitVec 5) (rn ia rm : BitVec 4) : RowMatch.Statement (.vld3x16T2PostReg dvd rn ia rm) := by
  show encode _ &&& _ = _
  exact (RowMatch.bits _ _ dvd rn ia _).trans (by decide)

theorem RowMatch.vld3x32T3Off (dvd : BitVec 5) (rn ia : BitVec 4) : RowMatch.Statement (.vld3x32T3Off dvd rn ia) := by
  show encode _ &&& _ = _
  exact (RowMatch.bitsRm _ _ dvd rn ia _).trans (by decide)

theorem RowMatch.vld3x32T3PostImm (dvd : BitVec 5) (rn ia : BitVec 4) : RowMatch.Statement (.vld3x32T3PostImm dvd rn ia) := by
  show encode _ &&& _ = _
  exact (RowMatch.bitsRm _ _ dvd rn ia _).trans (by decide)

theorem RowMatch.vld3x32T3PostReg (dvd : BitVec 5) (rn ia rm : BitVec 4) : RowMatch.Statement (.vld3x32T3PostReg dvd rn ia rm) := by
  show encode _ &&& _ = _
  exact (RowMatch.bits _ _ dvd rn ia _).trans (by decide)

end Sys2Proof.Laws
end

