-- ==== Sys2Proof/Laws/Whole.lean ====
section
/-! SUPPORT. Two facts about whole executions that many proofs share: the launch premises give `Completed`, and a change of
state that every stage carries along is carried along by the execution. -/

namespace Sys2Proof.Machine

/-- The launch premises of R141 give `Completed`. -/
theorem ready_completes (i : Instr) (s : State) (h : Ready i s) : exec i s = .next (completed (operandsOf i) s) := by
  refine exec_completes i s h.mode h.condition h.decodable h.enabled ?_
  rw [readAborts_eq_nil]
  intro k hk
  obtain ⟨hf, ha⟩ := h.readable
  have hnone := hf k hk
  have hb := (operands_bounds i).1
  unfold State.readAbort
  by_cases hs : s.strictAlign = true
  · have hbase := ha hs
    have : (elemAddr (operandsOf i) s k).toNat % (operandsOf i).ebytes = 0 := by
      unfold elemAddr
      rw [BitVec.toNat_add, BitVec.toNat_ofNat]
      rcases hb with e | e | e <;> rw [e] at hbase ⊢ <;> omega
    simp [*]
  · simp [*]

/-- What one stage needs to carry the change `g` along, for an execution that starts at `s`. -/
structure CarriedAlong (g : State → State) (set : InstrSet) (c : Operands) (s : State) : Prop where
  instrSet : (g s).instrSet = s.instrSet
  condition : conditionPassed set (g s) = conditionPassed set s
  draws : ∀ u, (g u).draws = u.draws
  params : ∀ u, (g u).params = u.params
  tick : ∀ u, (g u).tick = g u.tick
  advance : ∀ u : State, u.t = s.t → u.params = s.params → (g u).advance = g u.advance
  drawn : ∀ u, drawnRegs c (g u) = g (drawnRegs c u)
  enable : ∀ u, u = s ∨ u = s.tick ∨ u = s.tick.tick → enableFault (g u) = enableFault u
  aborts : conditionPassed set s = some true → decodeTests c s = none → readAborts c (g s) = readAborts c s
  abort : abortState c (g s) = g (abortState c s)
  complete : conditionPassed set s = some true → decodeTests c s = none → completed c (g s) = g (completed c s)

/-- A change that every stage carries along is carried along by the whole execution. -/
theorem execute_carries (g : State → State) (set : InstrSet) (c : Operands) (s : State) (h : CarriedAlong g set c s) :
    execute set c (g s) = mapOutcome g (execute set c s) := by
  have hunknown : ∀ u : State, u.t = s.t → u.params = s.params → unknownRegs c (g u) = g (unknownRegs c u) := by
    intro u h1 h2
    unfold unknownRegs
    rw [h.drawn, h.tick, h.advance]
    · rw [drawnRegs_eq]; exact h1
    · rw [drawnRegs_eq]; exact h2
  have hfault : ∀ f u, enableFault u = some f → mapOutcome g (.fault f) = .fault f := by
    intro f u hf; rcases enableFault_cases _ _ hf with ⟨rfl, _⟩ | ⟨rfl, _⟩ <;> rfl
  have hdo : ∀ b u, (u = s ∨ u = s.tick ∨ u = s.tick.tick) → doD3 b c (g u) = mapOutcome g (doD3 b c u) := by
    intro b u hu
    have ht : u.t = s.t := by rcases hu with rfl | rfl | rfl <;> rfl
    have hp : u.params = s.params := by rcases hu with rfl | rfl | rfl <;> rfl
    cases b <;> simp only [doD3, raise]
    · rfl
    · rw [h.advance u ht hp]; rfl
    · rw [h.enable u hu, h.draws, hunknown u ht hp]
      split
      · rfl
      · rename_i f hf
        split
        · rw [hfault _ _ hf]
        · rfl
  have hd3 : ∀ u, (u = s ∨ u = s.tick) → d3Above31 c (g u) = mapOutcome g (d3Above31 c u) := by
    intro u hu
    unfold d3Above31
    rw [h.params, h.draws, h.tick]
    split
    · rfl
    all_goals exact hdo _ _ (by rcases hu with rfl | rfl <;> simp)
  have htests : ∀ u, (u = s ∨ u = s.tick) → decodeTests c (g u) = (decodeTests c u).map (mapOutcome g) := by
    intro u hu
    unfold decodeTests raise
    split_ifs
    · rfl
    · rfl
    · rw [hd3 u hu]; rfl
    · rfl
  unfold execute
  rw [h.instrSet, h.condition]
  split
  · split
    · rfl
    · rename_i hc
      unfold conditionHeld
      rw [htests s (.inl rfl)]
      cases hn : decodeTests c s with
      | some o => rfl
      | none =>
        simp only [Option.map_none]
        unfold checkReadWrite
        rw [h.enable s (.inl rfl)]
        cases he : enableFault s with
        | some f => simp only [raise]; rw [hfault _ _ he]
        | none =>
          simp only []
          unfold readAndWrite
          rw [h.aborts hc hn]
          split
          · rw [h.complete hc hn]; rfl
          · unfold raiseDataAbort raise; rw [h.abort, h.draws]; rfl
    · unfold conditionFailed
      rw [h.tick, htests s.tick (.inr rfl)]
      cases hn : decodeTests c s.tick with
      | none => simp only [Option.map_none]; rw [h.advance s rfl rfl]; rfl
      | some o =>
        simp only [Option.map_some]
        rw [h.draws]
        split
        · rw [h.advance s.tick rfl rfl]; rfl
        · rfl
  · rfl

end Sys2Proof.Machine
end

