-- ==== Sys2Proof/Tests/Slice0.lean ====
section
/-! SUPPORT. The model's own tests. Expected results come from spec/95_test_vectors.md (V: decode, X: Completed, F: other
outcomes, P: programs) or are worked out by hand from the rules named; none is the model's own answer. The last part gives
each obligation's hypotheses a concrete witness. -/

namespace Sys2Proof.Tests

open Sys2Proof.Machine

/-! ### Well-formedness: one ill-formed term for each check (30_encoding.md R65, R66, R67, R70, R78) -/

theorem test_wf_index_align_8 : (Instr.vld3x8A1Off 0 0 0b0001).wellFormed = false := by decide

theorem test_wf_index_align_16 : (Instr.vld3x16T2PostImm 0 0 0b0101).wellFormed = false := by decide

theorem test_wf_index_align_32_bit0 : (Instr.vld3x32A3Off 0 0 0b0001).wellFormed = false := by decide

theorem test_wf_index_align_32_bit1 : (Instr.vld3x32T3PostReg 0 0 0b1110 3).wellFormed = false := by decide

theorem test_wf_base_r15 : (Instr.vld3x8T1Off 0 15 0).wellFormed = false := by decide

theorem test_wf_single_spaced_d3 :
    (Instr.vld3x8A1Off 29 0 0).wellFormed = true ∧ (Instr.vld3x8A1Off 30 0 0).wellFormed = false := by decide

theorem test_wf_double_spaced_d3_16 :
    (Instr.vld3x16A2Off 27 0 0b0010).wellFormed = true ∧ (Instr.vld3x16A2Off 28 0 0b0010).wellFormed = false := by decide

theorem test_wf_double_spaced_d3_32 :
    (Instr.vld3x32A3PostImm 27 0 0b0100).wellFormed = true ∧ (Instr.vld3x32A3PostImm 28 0 0b0100).wellFormed = false := by decide

theorem test_wf_index_register_13 :
    (Instr.vld3x8A1PostReg 0 0 0 13).encodable = false ∧ (Instr.vld3x8A1PostReg 0 0 0 13).wellFormed = false := by decide

theorem test_wf_index_register_15 :
    (Instr.vld3x32T3PostReg 0 0 0 15).encodable = false ∧ (Instr.vld3x32T3PostReg 0 0 0 14).encodable = true := by decide

/-! ### Decoding: one word per constructor, field by field from bit 31 (30_encoding.md R62 to R66) -/

theorem test_decode_v1 : decode .a32 0b11110100101000000000001000001111#32 = .ok (.vld3x8A1Off 0 0 0) := by decide

theorem test_decode_v2 :
    decode .a32 0b11110100101000010011001011101101#32 = .ok (.vld3x8A1PostImm 3 1 0b1110) := by decide

theorem test_decode_v3 :
    decode .a32 0b11110100101001001000001001100101#32 = .ok (.vld3x8A1PostReg 8 4 0b0110 5) := by decide

theorem test_decode_v4 : decode .a32 0b11110100101000000000011000001111#32 = .ok (.vld3x16A2Off 0 0 0) := by decide

theorem test_decode_v6 :
    decode .a32 0b11110100101011101010011011001101#32 = .ok (.vld3x16A2PostImm 10 14 0b1100) := by decide

theorem test_decode_v5 :
    decode .a32 0b11110100111000000000011001100010#32 = .ok (.vld3x16A2PostReg 16 0 0b0110 2) := by decide

theorem test_decode_v7 : decode .a32 0b11110100101000100000101000001111#32 = .ok (.vld3x32A3Off 0 2 0) := by decide

theorem test_decode_v8 :
    decode .a32 0b11110100111000010001101011001101#32 = .ok (.vld3x32A3PostImm 17 1 0b1100) := by decide

theorem test_decode_x20 :
    decode .a32 0b11110100101000000000101000000011#32 = .ok (.vld3x32A3PostReg 0 0 0 3) := by decide

theorem test_decode_v10 : decode .t32 0b11111001101000000000001000001111#32 = .ok (.vld3x8T1Off 0 0 0) := by decide

theorem test_decode_p4 :
    decode .t32 0b11111001101000000000001000101101#32 = .ok (.vld3x8T1PostImm 0 0 0b0010) := by decide

theorem test_decode_v11 :
    decode .t32 0b11111001111011001101001010101110#32 = .ok (.vld3x8T1PostReg 29 12 0b1010 14) := by decide

theorem test_decode_v13 :
    decode .t32 0b11111001111001111011011010101111#32 = .ok (.vld3x16T2Off 27 7 0b1010) := by decide

theorem test_decode_v12 :
    decode .t32 0b11111001101011010100011011001101#32 = .ok (.vld3x16T2PostImm 4 13 0b1100) := by decide

theorem test_decode_p2 :
    decode .t32 0b11111001111000010000011001100010#32 = .ok (.vld3x16T2PostReg 16 1 0b0110 2) := by decide

theorem test_decode_t3_offset :
    decode .t32 0b11111001101000100000101001001111#32 = .ok (.vld3x32T3Off 0 2 0b0100) := by decide

theorem test_decode_v15 :
    decode .t32 0b11111001101010010000101011001101#32 = .ok (.vld3x32T3PostImm 0 9 0b1100) := by decide

theorem test_decode_v14 :
    decode .t32 0b11111001111000111101101000000011#32 = .ok (.vld3x32T3PostReg 29 3 0 3) := by decide

/-! ### Decoding: what is refused, and the bytes (30_encoding.md R71, R73, 20_memory.md R43) -/

theorem test_decode_v34_v35 :
    decode .a32 0xF4A00E0F#32 = .error .otherInstruction ∧ decode .t32 0xF9A00E0F#32 = .error .otherInstruction := by decide

theorem test_decode_v36_v37 :
    decode .a32 0x04A0020F#32 = .error .noMatch ∧ decode .a32 0xF480020F#32 = .error .noMatch := by decide

theorem test_decode_v38 :
    decode .a32 0xF4A0010F#32 = .error .noMatch ∧ decode .a32 0xF4A0030F#32 = .error .noMatch := by decide

theorem test_decode_v39 :
    decode .a32 0xF4B0020F#32 = .error .noMatch ∧ decode .a32 0xF420020F#32 = .error .noMatch := by decide

theorem test_decode_v40 :
    decode .t32 0xF4A0020F#32 = .error .noMatch ∧ decode .a32 0xF9A0020F#32 = .error .noMatch := by decide

/-- V10: the bytes at `pc` are A0 F9 0F 02. -/
theorem test_bytes_v10 : decodeBytes .t32 [0xA0, 0xF9, 0x0F, 0x02] = .ok (.vld3x8T1Off 0 0 0) := by decide

/-- P1: the bytes at 8000H are 0D 02 A0 F4. -/
theorem test_bytes_p1 : decodeBytes .a32 [0x0D, 0x02, 0xA0, 0xF4] = .ok (.vld3x8A1PostImm 0 0 0) := by decide

/-- R73: BF00H has bits 15:11 = 10111, a whole 16-bit instruction. -/
theorem test_bytes_narrow : decodeBytes .t32 [0x00, 0xBF, 0x0F, 0x02] = .error .t32Narrow := by decide

theorem test_bytes_truncated : decodeBytes .a32 [0x0D, 0x02, 0xA0] = .error .truncated := by decide

theorem test_table_words :
    decodeTableWord 32 0xF4A0060F = some (.vld3x16A2Off 0 0 0) ∧
      decodeTableWord 32 0xF9A00A0D = some (.vld3x32T3PostImm 0 0 0) ∧ decodeTableWord 32 0xF4A00E0F = none := by decide

theorem test_assemble_v8 :
    let l : AsmLine := {
      cond := none, qualifier := none, size := 32, dd := 17, index := 1, doubleSpaced := true, rn := 1,
      address := .postImm }
    assemble .a32 l = some (.vld3x32A3PostImm 17 1 0b1100) := by decide

/-! ### Execution -/

/-- The test memory `M0` of 95_test_vectors.md section 2 (its last byte is 00H, as unlisted memory reads). -/
def m0 : Memory :=
  [(0x1000, 0x11), (0x1001, 0x22), (0x1002, 0x33), (0x1003, 0x44), (0x1004, 0x55), (0x1005, 0x66), (0x1006, 0x77),
    (0x1007, 0x88), (0x1008, 0x99), (0x1009, 0xAA), (0x100A, 0xBB), (0x100B, 0xCC), (0x100C, 0xDD), (0x100D, 0xEE),
    (0x100E, 0xFF)]

/-- A launch state of section 2: `pc` = 8000H, memory `M0`, every `D` register `fill`, the listed registers set. -/
def launch (t : Bool) (fill : DWord) (regs : List (Nat × Word)) : State :=
  regs.foldl (fun s p => s.setR p.1 p.2)
    { State.reset with t := t, pc := 0x8000, dregs := Vector.replicate 32 fill, mem := m0 }

/-- One step of the instruction of value `w`. -/
def run (s : State) (w : Nat) : Outcome := step (s.withFetchWord 32 w)

def dAt (o : Outcome) (k : Nat) : Option DWord :=
  match o with
  | .next t => some (t.d k)
  | .fault _ => none
  | .refused _ => none

def rAt (o : Outcome) (k : Nat) : Option Word :=
  match o with
  | .next t => some (t.r k)
  | .fault _ => none
  | .refused _ => none

def pcAt (o : Outcome) : Option Word :=
  match o with
  | .next t => some t.pc
  | .fault _ => none
  | .refused _ => none

def itAt (o : Outcome) : Option (BitVec 8) :=
  match o with
  | .next t => some t.itstate
  | .fault _ => none
  | .refused _ => none

def faultOf (o : Outcome) : Option Fault :=
  match o with
  | .next _ => none
  | .fault f => some f
  | .refused _ => none

def refusalOf (o : Outcome) : Option Refusal :=
  match o with
  | .next _ => none
  | .fault _ => none
  | .refused r => some r

def ones : DWord := 0xFFFFFFFFFFFFFFFF
def nibbles : DWord := 0x0123456789ABCDEF

theorem test_x1_a1_offset :
    let o := run (launch false ones [(0, 0x1000)]) 0xF4A0020F
    dAt o 0 = some 0xFFFFFFFFFFFFFF11 ∧ dAt o 1 = some 0xFFFFFFFFFFFFFF22 ∧
      dAt o 2 = some 0xFFFFFFFFFFFFFF33 ∧ dAt o 3 = some ones ∧ rAt o 0 = some 0x00001000 ∧
      pcAt o = some 0x8004 := by
  decide

theorem test_f6_a1_bytes_always_aligned :
    let o := run ({ launch false 0 [(0, 0x1001)] with strictAlign := true }) 0xF4A0020F
    dAt o 0 = some 0x0000000000000022 ∧ dAt o 1 = some 0x0000000000000033 ∧
      dAt o 2 = some 0x0000000000000044 := by
  decide

theorem test_x2_a1_immediate :
    let o := run (launch false 0 [(1, 0x1003)]) 0xF4A132ED
    dAt o 3 = some 0x4400000000000000 ∧ dAt o 4 = some 0x5500000000000000 ∧
      dAt o 5 = some 0x6600000000000000 ∧ rAt o 1 = some 0x00001006 := by
  decide

/-- Section 2.4: size 8 is byte-order independent. -/
theorem test_x2_a1_big_endian :
    let o := run ({ launch false 0 [(1, 0x1003)] with bigEndianData := true }) 0xF4A132ED
    dAt o 3 = some 0x4400000000000000 ∧ dAt o 4 = some 0x5500000000000000 ∧
      dAt o 5 = some 0x6600000000000000 ∧ rAt o 1 = some 0x00001006 := by
  decide

theorem test_x3_a1_register :
    let o := run (launch false nibbles [(4, 0x1008), (5, 0xFFFFFFFF)]) 0xF4A48265
    dAt o 8 = some 0x0123456799ABCDEF ∧ dAt o 9 = some 0x01234567AAABCDEF ∧
      dAt o 10 = some 0x01234567BBABCDEF ∧ rAt o 4 = some 0x00001007 ∧ rAt o 5 = some 0xFFFFFFFF := by
  decide

theorem test_x4_a2_offset :
    let o := run (launch false ones [(0, 0x1000)]) 0xF4A0060F
    dAt o 0 = some 0xFFFFFFFFFFFF2211 ∧ dAt o 1 = some 0xFFFFFFFFFFFF4433 ∧
      dAt o 2 = some 0xFFFFFFFFFFFF6655 ∧ rAt o 0 = some 0x00001000 := by
  decide

theorem test_x7_a2_immediate :
    let o := run (launch false 0 [(14, 0x1001)]) 0xF4AEA6CD
    dAt o 10 = some 0x3322000000000000 ∧ dAt o 11 = some 0x5544000000000000 ∧
      dAt o 12 = some 0x7766000000000000 ∧ rAt o 14 = some 0x00001007 := by
  decide

/-- X19: the structure runs over the top of the address space (20_memory.md R55). -/
theorem test_x19_a2_wraps :
    let m : Memory := [(0, 0xC3), (1, 0xD4), (2, 0xE5), (3, 0xF6), (0xFFFFFFFE, 0xA1), (0xFFFFFFFF, 0xB2)]
    let o := run { launch false 0 [(0, 0xFFFFFFFE)] with mem := m } 0xF4A0060D
    dAt o 0 = some 0xB2A1 ∧ dAt o 1 = some 0xD4C3 ∧ dAt o 2 = some 0xF6E5 ∧ rAt o 0 = some 4 := by
  decide

theorem test_x5_a2_register :
    let o := run (launch false ones [(0, 0x1000), (2, 0x10)]) 0xF4E00662
    dAt o 16 = some 0xFFFFFFFF2211FFFF ∧ dAt o 18 = some 0xFFFFFFFF4433FFFF ∧
      dAt o 20 = some 0xFFFFFFFF6655FFFF ∧ dAt o 17 = some ones ∧ dAt o 19 = some ones ∧
      rAt o 0 = some 0x00001010 := by
  decide

theorem test_x6_a2_big_endian :
    let o := run ({ launch false ones [(0, 0x1000), (2, 0x10)] with bigEndianData := true }) 0xF4E00662
    dAt o 16 = some 0xFFFFFFFF1122FFFF ∧ dAt o 18 = some 0xFFFFFFFF3344FFFF ∧
      dAt o 20 = some 0xFFFFFFFF5566FFFF ∧ rAt o 0 = some 0x00001010 := by
  decide

theorem test_x8_a3_offset :
    let o := run (launch false ones [(2, 0x1000)]) 0xF4A20A0F
    dAt o 0 = some 0xFFFFFFFF44332211 ∧ dAt o 1 = some 0xFFFFFFFF88776655 ∧
      dAt o 2 = some 0xFFFFFFFFCCBBAA99 ∧ rAt o 2 = some 0x00001000 := by
  decide

theorem test_x11_a3_unaligned :
    let o := run (launch false 0 [(2, 0x1001)]) 0xF4A20A0F
    dAt o 0 = some 0x0000000055443322 ∧ dAt o 1 = some 0x0000000099887766 ∧
      dAt o 2 = some 0x00000000DDCCBBAA := by
  decide

theorem test_x9_a3_immediate :
    let o := run (launch false nibbles [(1, 0x1004)]) 0xF4E11ACD
    dAt o 17 = some 0x8877665589ABCDEF ∧ dAt o 19 = some 0xCCBBAA9989ABCDEF ∧
      dAt o 21 = some 0x00FFEEDD89ABCDEF ∧ dAt o 18 = some nibbles ∧ dAt o 20 = some nibbles ∧
      rAt o 1 = some 0x00001010 := by
  decide

theorem test_x10_a3_big_endian :
    let o := run ({ launch false nibbles [(1, 0x1004)] with bigEndianData := true }) 0xF4E11ACD
    dAt o 17 = some 0x5566778889ABCDEF ∧ dAt o 19 = some 0x99AABBCC89ABCDEF ∧
      dAt o 21 = some 0xDDEEFF0089ABCDEF ∧ rAt o 1 = some 0x00001010 := by
  decide

/-- X20: the first word itself crosses the top. -/
theorem test_x20_a3_register_wraps :
    let m : Memory :=
      [(0, 0x04), (1, 0x05), (2, 0x06), (3, 0x07), (4, 0x08), (5, 0x09), (6, 0x0A), (7, 0x0B), (8, 0x0C),
        (0xFFFFFFFD, 0x01), (0xFFFFFFFE, 0x02), (0xFFFFFFFF, 0x03)]
    let o := run { launch false 0 [(0, 0xFFFFFFFD), (3, 0x10)] with mem := m } 0xF4A00A03
    dAt o 0 = some 0x04030201 ∧ dAt o 1 = some 0x08070605 ∧ dAt o 2 = some 0x0C0B0A09 ∧ rAt o 0 = some 0xD := by
  decide

theorem test_x12_t1_offset :
    let o := run (launch true ones [(0, 0x1000)]) 0xF9A0020F
    dAt o 0 = some 0xFFFFFFFFFFFFFF11 ∧ dAt o 1 = some 0xFFFFFFFFFFFFFF22 ∧
      dAt o 2 = some 0xFFFFFFFFFFFFFF33 ∧ rAt o 0 = some 0x00001000 ∧ itAt o = some 0 ∧ pcAt o = some 0x8004 := by
  decide

/-- P4 with `Z = 1`, first instruction: the EQ slot of an ITE block runs and `ITSTATE` goes from 0CH to 18H. -/
theorem test_p4_t1_immediate :
    let s := launch true 0 [(0, 0x1000)]
    let o := run { s with itstate := 0x0C, flags := { s.flags with z := true } } 0xF9A0020D
    dAt o 0 = some 0x11 ∧ dAt o 1 = some 0x22 ∧ dAt o 2 = some 0x33 ∧ rAt o 0 = some 0x1003 ∧ itAt o = some 0x18 := by
  decide

/-- P4 with `Z = 0`, first instruction: skipped. -/
theorem test_p4_t1_skipped :
    let o := run { launch true 0 [(0, 0x1000)] with itstate := 0x0C } 0xF9A0020D
    dAt o 0 = some 0 ∧ rAt o 0 = some 0x1000 ∧ itAt o = some 0x18 ∧ pcAt o = some 0x8004 := by
  decide

theorem test_x13_t1_register :
    let o := run (launch true 0 [(12, 0x100C), (14, 0xFFFFFFF4)]) 0xF9ECD2AE
    dAt o 29 = some 0x0000DD0000000000 ∧ dAt o 30 = some 0x0000EE0000000000 ∧
      dAt o 31 = some 0x0000FF0000000000 ∧ rAt o 12 = some 0x00001000 ∧ rAt o 14 = some 0xFFFFFFF4 := by
  decide

theorem test_x15_t2_offset :
    let o := run (launch true ones [(7, 0x100A)]) 0xF9E7B6AF
    dAt o 27 = some 0xFFFFCCBBFFFFFFFF ∧ dAt o 29 = some 0xFFFFEEDDFFFFFFFF ∧
      dAt o 31 = some 0xFFFF00FFFFFFFFFF ∧ dAt o 28 = some ones ∧ dAt o 30 = some ones ∧
      rAt o 7 = some 0x0000100A := by
  decide

theorem test_x14_t2_immediate :
    let o := run (launch true 0 [(13, 0x1002)]) 0xF9AD46CD
    dAt o 4 = some 0x4433000000000000 ∧ dAt o 5 = some 0x6655000000000000 ∧
      dAt o 6 = some 0x8877000000000000 ∧ rAt o 13 = some 0x00001008 := by
  decide

/-- P2, first instruction. -/
theorem test_p2_t2_register :
    let m : Memory := [(0x3000, 0x01), (0x3001, 0x01), (0x3002, 0x02), (0x3003, 0x02), (0x3004, 0x03), (0x3005, 0x03)]
    let o := run { launch true 0 [(1, 0x3000), (2, 8)] with mem := m } 0xF9E10622
    dAt o 16 = some 0x0101 ∧ dAt o 18 = some 0x0202 ∧ dAt o 20 = some 0x0303 ∧ rAt o 1 = some 0x3008 := by
  decide

/-- X8's memory and result (by hand from R96) with T3's double spacing. -/
theorem test_t3_offset :
    let o := run (launch true ones [(2, 0x1000)]) 0xF9A20A4F
    dAt o 0 = some 0xFFFFFFFF44332211 ∧ dAt o 2 = some 0xFFFFFFFF88776655 ∧
      dAt o 4 = some 0xFFFFFFFFCCBBAA99 ∧ dAt o 1 = some ones ∧ dAt o 3 = some ones ∧
      rAt o 2 = some 0x00001000 := by
  decide

theorem test_x17_t3_immediate :
    let o := run (launch true 0 [(9, 0x1000)]) 0xF9A90ACD
    dAt o 0 = some 0x4433221100000000 ∧ dAt o 2 = some 0x8877665500000000 ∧
      dAt o 4 = some 0xCCBBAA9900000000 ∧ dAt o 1 = some 0x0000000000000000 ∧
      dAt o 3 = some 0x0000000000000000 ∧ rAt o 9 = some 0x0000100C := by
  decide

theorem test_x16_t3_register :
    let o := run (launch true ones [(3, 0x1000)]) 0xF9E3DA03
    dAt o 29 = some 0xFFFFFFFF44332211 ∧ dAt o 30 = some 0xFFFFFFFF88776655 ∧
      dAt o 31 = some 0xFFFFFFFFCCBBAA99 ∧ rAt o 3 = some 0x00002000 := by
  decide

/-- A region of translation aborts, byte by byte. -/
def region (lo hi : Nat) : AbortRegion where
  lo := lo
  hi := hi
  unit := .byte
  size := none
  security := none
  mode := none
  kind := .translation
  report := .byte

/-- F8: an EQ slot with `Z = 0` is skipped, even where the structure is unreadable and Advanced SIMD is disabled. -/
theorem test_f8_t3_skipped :
    let s := launch true 0 [(3, 0x1000)]
    let bad : AbortRegion := { region 0x1000 0x1FFF with kind := .permission }
    let o := run { s with itstate := 0x08, params := { s.params with memFault := .regions [bad], enableDefault := .undefined } }
      0xF9E3DA03
    pcAt o = some 0x8004 ∧ itAt o = some 0 ∧ rAt o 3 = some 0x1000 ∧ dAt o 29 = some 0 := by
  decide

/-! ### Outcomes other than `Completed` -/

/-- A state with Advanced SIMD answered as given. -/
def answering (a : EnableAnswer) (s : State) : State := { s with params := { s.params with enableDefault := a } }

/-- A state with `CU_d3` set as given. -/
def withCU (b : CUd3) (s : State) : State := { s with params := { s.params with cuD3 := b } }

theorem test_f1 : faultOf (run (launch false 0 []) 0xF4A0021F) = some (.undefined .indexAlign) := by decide

theorem test_f2 :
    faultOf (run (answering .undefined (launch false 0 [(0, 0x1000)])) 0xF4A0020F) = some (.undefined .enableCheck) := by decide

theorem test_f3 : faultOf (run (answering .hypTrap (launch false 0 [(0, 0x1000)])) 0xF4A0020F) = some .hypTrapAdvSIMD := by decide

theorem test_f4 : faultOf (run (answering .hypTrap (launch false 0 [])) 0xF4A0021F) = some (.undefined .indexAlign) := by decide

/-- F5: the reported address is 1001H, 1003H or 1005H, a draw. -/
theorem test_f5_reads :
    (readAborts (decode16 0 0 0 15) { launch false 0 [(0, 0x1001)] with strictAlign := true }).map FaultInfo.addr =
      [0x1001, 0x1003, 0x1005] := by decide

/-- `MemFault` of F7: a translation abort everywhere but 1000H to 1FFFH. -/
def f7 : State :=
  let s := launch false 0x1111111111111111 [(0, 0x1FFC)]
  { s with params := { s.params with memFault := .regions [region 0 0xFFF, region 0x2000 0xFFFFFFFF] } }

/-- F7: only the third read aborts; the base, `pc` and `D3` are as before. -/
theorem test_f7 :
    ∃ after, exec (.vld3x16A2PostImm 0 0 0) f7 =
        .fault (.dataAbort { kind := .translation, addr := 0x2000 } after) ∧
      after.r 0 = 0x1FFC ∧ after.pc = 0x8000 ∧ after.d 3 = 0x1111111111111111 := by
  refine ⟨abortState (decode16 0 0 0 13) f7, ?_, by decide, by decide, by decide⟩
  show raiseDataAbort { kind := .translation, addr := 0x2000 } [] (decode16 0 0 0 13) f7 = _
  simp [raiseDataAbort, raise, Nat.mod_one]

/-- 20_memory.md R54: an element region answers for the element address alone, with the kind and the address it gives. -/
theorem test_element_region :
    let g : AbortRegion := { region 0x1000 0x1000 with unit := .element, kind := .alignment, report := .address 0x42 }
    let s := launch false 0 []
    let u := { s with params := { s.params with memFault := .regions [g] } }
    u.memFault 0x1000 2 = some { kind := .alignment, addr := 0x42 } ∧ u.memFault 0xFFF 2 = none := by decide

/-- 20_memory.md R41: a byte region answers for any byte of the access, here the second one's address. -/
theorem test_byte_region :
    let s := launch false 0 []
    let u := { s with params := { s.params with memFault := .regions [region 0x1000 0x1000] } }
    u.memFault 0xFFF 2 = some { kind := .translation, addr := 0x1000 } ∧ u.memFault 0x1001 2 = none := by decide

/-- F11: `ITSTATE = 10H` is inconsistent. -/
theorem test_f11 :
    refusalOf (run { launch true 0 [(0, 0x1000)] with itstate := 0x10 } 0xF9A0020F) = some (.unpredictable .itstate) := by
  decide

theorem test_f12 :
    refusalOf (run (withCU .refuse (launch false 0 [(0, 0x1000)])) 0xF4E0E20F) = some (.unpredictable .d3) := by decide

theorem test_f13 : faultOf (run (withCU .undefined (launch false 0 [(0, 0x1000)])) 0xF4E0E20F) = some (.undefined .cuD3) := by decide

theorem test_f14 :
    let o := run (withCU .nop (launch false ones [(0, 0x1000)])) 0xF4E0E20F
    pcAt o = some 0x8004 ∧ dAt o 30 = some ones ∧ rAt o 0 = some 0x1000 := by decide

/-- F15: with write-back only `R0` and the `D` registers are drawn. -/
theorem test_f15 :
    let o := run (withCU .unknownRegs (launch false 0 [(0, 0x1000), (1, 7)])) 0xF4E0CA4D
    pcAt o = some 0x8004 ∧ rAt o 1 = some 7 ∧ dAt o 5 = some (Config.freeD 0 5) ∧ rAt o 0 = some (Config.freeR 0) := by
  exact ⟨rfl, rfl, rfl, rfl⟩

theorem test_f16 : refusalOf (run (launch false 0 []) 0xF4A00E0F) = some (.notThisInstruction .otherInstruction) := by
  decide

theorem test_f17 : refusalOf (run (launch false 0 []) 0xF4AF020F) = some (.unpredictable .baseIsR15) := by decide

/-- V24: UNDEFINED comes before UNPREDICTABLE (30_encoding.md R72). -/
theorem test_v24 : faultOf (run (launch false 0 []) 0xF4EFF63F) = some (.undefined .indexAlign) := by decide

/-- V31: `n == 15` is refused whatever `CU_d3` is. -/
theorem test_v31 : refusalOf (run (withCU .nop (launch false 0 [])) 0xF4EFF20F) = some (.unpredictable .baseIsR15) := by
  decide

/-- The `ITSTATE` sequences after F17: 08 to 00; 04 to 08 to 00; 0C to 18 to 00; 00 to 00. -/
theorem test_it_sequences :
    itAdvance 0x08 = 0 ∧ itAdvance 0x04 = 0x08 ∧ itAdvance 0x0C = 0x18 ∧ itAdvance 0x18 = 0 ∧ itAdvance 0 = 0 ∧
      currentCond 0x0C = some 0 ∧ currentCond 0x18 = some 1 ∧ currentCond 0 = some 14 := by decide

/-- Empty memory decodes to nothing of this page. -/
theorem test_first_step_from_reset : refusalOf (step State.reset) = some (.notThisInstruction .noMatch) := by decide

/-! ### Witnesses: the hypotheses of the obligations are met -/

/-- Every word of the decode tests is a hypothesis of the two statements about decoded words; here the boundary registers. -/
theorem test_hyp_decoded_word :
    decode .a32 (encode (.vld3x8A1PostReg 31 15 15 14)) = .ok (.vld3x8A1PostReg 31 15 15 14) ∧
      decode .t32 (encode (.vld3x32T3PostReg 31 15 15 12)) = .ok (.vld3x32T3PostReg 31 15 15 12) := by decide

theorem test_hyp_encodable :
    (Instr.vld3x8A1PostReg 31 15 15 14).encodable = true ∧ (Instr.vld3x8A1PostReg 31 15 15 12).encodable = true := by
  decide

/-- A state with the bytes of a value at `pc`, in the given instruction-set state. -/
def placed (t : Bool) (w : Word) : State :=
  State.storeBytes { launch t 0 [] with mem := [] } 0x8000 (bytesOfValue (if t then .t32 else .a32) w)

theorem test_hyp_size11 :
    (0xF4EFFEFF#32 &&& 0xFFB00F00#32 = 0xF4A00E00#32) ∧ (0xF9A00E0F#32 &&& 0xFFB00F00#32 = 0xF9A00E00#32) ∧
      (placed true 0xF9A00E0F).pcAligned = true ∧
      (placed true 0xF9A00E0F).fetchBytes = bytesOfValue (placed true 0xF9A00E0F).instrSet 0xF9A00E0F#32 ∧
      (placed false 0xF4A00E0F).pcAligned = true ∧
      (placed false 0xF4A00E0F).fetchBytes = bytesOfValue (placed false 0xF4A00E0F).instrSet 0xF4A00E0F#32 := by decide

theorem test_hyp_outside :
    (0xF4A0010F#32 &&& 0xFFB00300#32 ≠ 0xF4A00200#32) ∧ (0xF4A0020F#32 &&& 0xFFB00300#32 ≠ 0xF9A00200#32) := by decide

/-- A line of assembler with the given address operand. -/
def line (address : AsmAddress) : AsmLine :=
  { cond := none, qualifier := none, size := 16, dd := 27, index := 3, doubleSpaced := true, rn := 14, address := address }

theorem test_hyp_assembled :
    assemble .t32 (line .offset) = some (.vld3x16T2Off 27 14 0b1110) ∧
      assemble .a32 (line .postImm) = some (.vld3x16A2PostImm 27 14 0b1110) ∧
      assemble .a32 (line (.postReg 12)) = some (.vld3x16A2PostReg 27 14 0b1110 12) ∧
      assemble .a32 (line (.postReg 13)) = none := by decide

/-- `a32` and `t32`: the launch states the witnesses below use. -/
def a32 : State := launch false ones [(0, 0x1000), (2, 3), (4, 6), (5, 12)]

def t32 : State := launch true ones [(0, 0x1000), (2, 3), (4, 6), (5, 12)]

/-- The state `t32` in an EQ slot, whose condition fails since `Z = 0`. -/
def t32Fails : State := { t32 with itstate := 0x08 }

/-- The state `t32` with the condition as a Boolean input at false. -/
def t32InputFails : State := { t32 with condIn := false, params := { t32.params with condInput := .input } }

theorem test_hyp_a32_form : (Instr.vld3x32A3PostImm 17 1 0b1100).instrSet = .a32 := by decide

theorem test_hyp_inconsistent_itstate :
    let s := { t32 with itstate := 0xF0 }
    (Instr.vld3x8T1Off 0 0 0).instrSet = .t32 ∧ s.t = true ∧ s.params.condInput = .fromITSTATE ∧
      s.itstate.toNat % 16 = 0 ∧ s.itstate.toNat / 16 ≠ 0 := by decide

theorem test_hyp_failed_condition :
    (Instr.vld3x8T1Off 0 0 0).wellFormed = true ∧ (Instr.vld3x8T1Off 0 0 0).instrSet = .t32 ∧ t32Fails.t = true ∧
      conditionPassed .t32 t32Fails = some false ∧ t32Fails.params.condInput = .fromITSTATE ∧
      conditionPassed .t32 t32InputFails = some false ∧ t32InputFails.params.condInput = .input := by decide

theorem test_hyp_failed_bad_pattern :
    (operandsOf (.vld3x8T1Off 0 0 1)).reserved = true ∧ (operandsOf (.vld3x8T1Off 0 15 0)).n = 15 ∧
      31 < (operandsOf (.vld3x8T1Off 30 0 0)).d3 ∧ conditionPassed .t32 t32Fails = some false := by decide

/-- Each clause of the reserved `index_align` statement, and its converse's hypothesis. -/
theorem test_hyp_reserved :
    a32.instrSet = (Instr.vld3x16A2Off 0 0 1).instrSet ∧ conditionPassed .a32 a32 = some true ∧
      (operandsOf (.vld3x16A2Off 0 0 1)).ebytes ≠ 4 ∧ (indexAlignOf (.vld3x16A2Off 0 0 1)).getLsbD 0 = true ∧
      (operandsOf (.vld3x32A3Off 0 0 2)).ebytes = 4 ∧ (indexAlignOf (.vld3x32A3Off 0 0 2)).getLsbD 1 = true ∧
      faultOf (exec (.vld3x32A3Off 0 0 2) a32) = some (.undefined .indexAlign) := by decide

theorem test_hyp_base_r15 :
    a32.instrSet = (Instr.vld3x8A1Off 0 15 0).instrSet ∧ (operandsOf (.vld3x8A1Off 0 15 0)).reserved = false ∧
      (operandsOf (.vld3x8A1Off 0 15 0)).n = 15 := by decide

/-- `d3 = 32`, the boundary, under every setting of `CU_d3`. -/
theorem test_hyp_d3_above_31 :
    (operandsOf (.vld3x16A2PostImm 28 0 2)).d3 = 32 ∧ (operandsOf (.vld3x16A2PostImm 28 0 2)).reserved = false ∧
      (operandsOf (.vld3x16A2PostImm 28 0 2)).n ≠ 15 ∧
      ∀ b ∈ [CUd3.refuse, .undefined, .nop, .unknownRegs, .anyOf],
        (withCU b a32).params.cuD3 = b ∧ (withCU b a32).instrSet = .a32 := by decide

theorem test_hyp_disabled :
    (answering .undefined a32).advSIMDCheck = .undefined ∧ (answering .hypTrap t32).advSIMDCheck = .hypTrap ∧
      (Instr.vld3x8A1Off 0 0 0).wellFormed = true ∧ (answering .undefined a32).instrSet = .a32 ∧
      conditionPassed .t32 (answering .hypTrap t32) = some true ∧ (answering .hypTrap t32).instrSet = .t32 := by decide

/-- Without Hyp mode an answer HypTrap reads as Undefined. -/
theorem test_hyp_no_hyp :
    let s := answering .hypTrap a32
    let u := { s with params := { s.params with hasHyp := false } }
    u.params.hasHyp = false ∧ u.advSIMDCheck = .undefined := by decide

theorem test_hyp_strict :
    let s := { launch false 0 [(0, 0x1001)] with strictAlign := true }
    (Instr.vld3x16A2Off 0 0 0).wellFormed = true ∧ s.instrSet = .a32 ∧ s.advSIMDCheck = .enabled ∧
      s.strictAlign = true ∧ (s.r 0).toNat % (operandsOf (.vld3x16A2Off 0 0 0)).ebytes ≠ 0 := by decide

/-- An aborting read, and (from `test_f7`) the Data Abort that the statements about its state ask for. -/
theorem test_hyp_abort :
    (Instr.vld3x16A2PostImm 0 0 0).wellFormed = true ∧ f7.instrSet = .a32 ∧ f7.advSIMDCheck = .enabled ∧
      (f7.readAbort (elemAddr (decode16 0 0 0 13) f7 2) 2).isSome = true ∧
      (f7.readAbort (elemAddr (decode16 0 0 0 13) f7 1) 2).isSome = false := by decide

theorem test_hyp_one_read_aborts :
    f7.strictAlign = false ∧
      f7.memFault (elemAddr (decode16 0 0 0 13) f7 2) 2 = some { kind := .translation, addr := 0x2000 } ∧
      ∀ j < 3, j ≠ 2 → f7.memFault (elemAddr (decode16 0 0 0 13) f7 j) 2 = none := by decide

/-- The reads abort alike: with a list of regions whatever changes, and with any `MemFault` where both states are misaligned
under strict alignment (here, after a change of memory). -/
theorem test_hyp_abort_alike :
    ReadsAbortAlike (decode16 0 0 0 13) a32 { a32 with mem := [] } ∧
      (let s := { launch false 0 [(0, 0x1001)] with strictAlign := true }
       let u := { s with params := { s.params with memFault := .uninterpreted } }
       ReadsAbortAlike (decode16 0 0 0 13) u { u with mem := [] }) :=
  ⟨.inl (by decide), .inr (by decide)⟩

theorem test_hyp_abort_register : ∃ info after, exec (.vld3x16A2PostReg 0 0 0 2) f7 = .fault (.dataAbort info after) :=
  ⟨_, _, rfl⟩

/-- The hypotheses of the results of A1, A2 and A3 at the highest registers. -/
theorem test_hyp_result_a32 :
    let s := { a32 with strictAlign := true }
    s.t = false ∧ s.advSIMDCheck = .enabled ∧ (0b1110#4).getLsbD 0 = false ∧ (0b1100#4).getLsbD 1 = false ∧
      (0 : BitVec 4) ≠ 15 ∧ (29#5).toNat + 2 ≤ 31 ∧ (27#5).toNat + 2 * (if (0b1110#4).getLsbD 1 then 2 else 1) ≤ 31 ∧
      (27#5).toNat + 2 * (if (0b1100#4).getLsbD 2 then 2 else 1) ≤ 31 ∧ (s.r 0).toNat % 2 = 0 ∧ (s.r 0).toNat % 4 = 0 ∧
      (∀ k < 3, s.memFault (s.r 0 + BitVec.ofNat 32 k) 1 = none) ∧
      (∀ k < 3, s.memFault (s.r 0 + BitVec.ofNat 32 (2 * k)) 2 = none) ∧
      ∀ k < 3, s.memFault (s.r 0 + BitVec.ofNat 32 (4 * k)) 4 = none := by decide

/-- The same for T1, T2 and T3. -/
theorem test_hyp_result_t32 :
    let s := { t32 with strictAlign := true }
    s.t = true ∧ conditionPassed .t32 s = some true ∧ s.params.condInput = .fromITSTATE ∧ s.advSIMDCheck = .enabled ∧
      (s.r 0).toNat % 2 = 0 ∧ (s.r 0).toNat % 4 = 0 ∧
      (∀ k < 3, s.memFault (s.r 0 + BitVec.ofNat 32 k) 1 = none) ∧
      (∀ k < 3, s.memFault (s.r 0 + BitVec.ofNat 32 (2 * k)) 2 = none) ∧
      ∀ k < 3, s.memFault (s.r 0 + BitVec.ofNat 32 (4 * k)) 4 = none := by decide

theorem test_hyp_ready_offset : Ready (.vld3x8A1Off 29 0 0b1110) a32 :=
  ⟨by decide, by decide, by decide, by decide, by decide, by decide⟩

theorem test_hyp_ready_immediate : Ready (.vld3x16T2PostImm 27 0 0b1110) t32 :=
  ⟨by decide, by decide, by decide, by decide, by decide, by decide⟩

theorem test_hyp_ready_register : Ready (.vld3x32A3PostReg 27 0 0b1100 2) a32 :=
  ⟨by decide, by decide, by decide, by decide, by decide, by decide⟩

/-- `m = n`, the base register its own index. -/
theorem test_hyp_ready_same_register :
    Ready (.vld3x32T3PostReg 29 0 0 0) t32 ∧ (operandsOf (.vld3x32T3PostReg 29 0 0 0)).m = 0 :=
  ⟨⟨by decide, by decide, by decide, by decide, by decide, by decide⟩, by decide⟩

/-- The immediate variant with the stack pointer as base (`n = 13`). -/
theorem test_hyp_ready_sp : Ready (.vld3x8T1PostImm 0 13 0) t32 :=
  ⟨by decide, by decide, by decide, by decide, by decide, by decide⟩

/-- Ready in another mode and Security state too. -/
theorem test_hyp_ready_other_mode : Ready (.vld3x8A1Off 29 0 0b1110) { a32 with mode := .hyp, security := .nonSecure } :=
  ⟨by decide, by decide, by decide, by decide, by decide, by decide⟩

/-- A next state of each kind: completed, skipped, NOP, registers UNKNOWN. -/
theorem test_hyp_next_state :
    (∃ t, exec (.vld3x8A1Off 29 0 0b1110) a32 = .next t) ∧ (∃ t, exec (.vld3x8T1PostImm 0 0 0) t32Fails = .next t) ∧
      (∃ t, exec (.vld3x8A1Off 30 0 0) (withCU .nop a32) = .next t) ∧
      ∃ t, exec (.vld3x8A1PostImm 30 0 0) (withCU .unknownRegs a32) = .next t :=
  ⟨⟨_, rfl⟩, ⟨_, rfl⟩, ⟨_, rfl⟩, ⟨_, rfl⟩⟩

/-- The lanes of each size at both ends. -/
theorem test_hyp_lanes :
    (7 < 64 / 8 ∧ 3 < 64 / 16 ∧ 1 < 64 / 32) ∧ elem (setElem 0 7 8 0xAB) 7 8 = 0xAB ∧ setElem 0 7 8 0xAB = 0xAB00000000000000 := by
  decide

/-- The views at the ends of the file: `D31` is the high half of `Q15`; `D15` is `S30` and `S31`. -/
theorem test_hyp_views :
    ((a32.setD 31 5).q 15).extractLsb' 64 64 = 5 ∧ ((a32.setD 15 0x600000005).sreg 30) = 5 ∧
      ((a32.setD 15 0x600000005).sreg 31) = 6 := by decide

theorem test_hyp_immediate_is_register :
    a32.r 2 = 3 ∧ a32.r 4 = 6 ∧ a32.r 5 = 12 ∧ (2 : BitVec 4) ≠ 13 ∧ (2 : BitVec 4) ≠ 15 ∧ (2 : BitVec 4) ≠ 0 := by decide

/-- The offset form runs twice. -/
theorem test_hyp_twice :
    ∃ t, exec (.vld3x8A1Off 29 0 0b1110) a32 = .next t ∧ t.t = false ∧ ∃ u, exec (.vld3x8A1Off 29 0 0b1110) t = .next u :=
  ⟨_, rfl, rfl, _, rfl⟩

/-- Another memory, the same in the three bytes read. -/
theorem test_hyp_structure_only :
    let m : Memory := [(0xFFF, 0x99), (0x1000, 0x11), (0x1001, 0x22), (0x1002, 0x33)]
    m ≠ a32.mem ∧ ∀ k < 3, Memory.read m (a32.r 0 + BitVec.ofNat 32 k).toNat = a32.byte (a32.r 0 + BitVec.ofNat 32 k) := by
  decide

theorem test_hyp_step_decodes :
    let s := placed true 0xF9ECD2AE
    s.pc.toNat % 2 = 0 ∧
      decodeBytes .t32 [s.byte s.pc, s.byte (s.pc + 1), s.byte (s.pc + 2), s.byte (s.pc + 3)] =
        .ok (.vld3x8T1PostReg 29 12 0b1010 14) := by decide

theorem test_hyp_step_refuses :
    (placed true 0xBF000000).pcAligned = true ∧
      decodeBytes (placed true 0xBF000000).instrSet (placed true 0xBF000000).fetchBytes = .error .t32Narrow ∧
      { a32 with pc := 0x8002 }.pc.toNat % 4 ≠ 0 ∧ { t32 with pc := 0x8001 }.pc.toNat % 2 ≠ 0 := by decide

theorem test_hyp_inv : (t32.withFetchWord 32 0xF9A0020D).Inv ∧ ∃ t, step (t32.withFetchWord 32 0xF9A0020D) = .next t :=
  ⟨⟨by decide, by decide, by decide⟩, _, rfl⟩

theorem test_hyp_placed :
    (Instr.vld3x32T3PostReg 31 15 15 14).encodable = true ∧ Memory.wf a32.mem = true ∧ a32.pc.toNat % 4 = 0 := by decide

end Sys2Proof.Tests
end

section
/-! What a completed execution has loaded and written back, and what a faulting one leaves of the general-purpose registers:
the facts that the statements about the addressing variants (R97 to R99) and the lane law (R100) share. -/

namespace Sys2Proof.Machine

/-- The base of a well-formed form is one of `R[0]` to `R[14]` (R104). -/
theorem wellFormed_n_lt (i : Instr) (h : i.wellFormed = true) : (operandsOf i).n < 15 := by
  obtain ⟨-, hn15, -⟩ := wellFormed_operands i h
  obtain ⟨-, -, -, -, hn16, -⟩ := operands_bounds i
  omega

/-- The spacing of every form is at least 1 (R67). -/
theorem one_le_inc (i : Instr) : 1 ≤ (operandsOf i).inc := by
  obtain ⟨-, -, hinc, -⟩ := operands_bounds i
  omega

/-- The second register is element 1's (R67). -/
theorem Operands.d2_eq (c : Operands) : c.d2 = c.d + 1 * c.inc := by
  rw [Nat.one_mul, Operands.d2]

/-- The third register is element 2's (R67). -/
theorem Operands.d3_eq (c : Operands) : c.d3 = c.d + 2 * c.inc := by
  rw [Nat.two_mul, ← Nat.add_assoc, Operands.d3, Operands.d2]

/-- Element 0 stands at the base itself (R40). -/
theorem elemAddr_zero (c : Operands) (s : State) : elemAddr c s 0 = s.r c.n := by
  simp [elemAddr]

/-- A `Completed` execution of a well-formed form leaves element `k` in the lane of the register `d + k*inc` (R90). -/
theorem completed_d_element (i : Instr) (s : State) (h : i.wellFormed = true) (k : Nat) (hk : k < 3) :
    let c := operandsOf i
    (completed c s).d (c.d + k * c.inc) =
      setElem (s.d (c.d + k * c.inc)) c.index (8 * c.ebytes) (s.readValue (elemAddr c s k) c.ebytes) := by
  intro c
  obtain ⟨-, -, hd3⟩ := wellFormed_operands i h
  have hinc : 1 ≤ c.inc := one_le_inc i
  rw [completed_d, loadLanes_d c s hinc hd3, c.d2_eq, c.d3_eq]
  obtain rfl | rfl | rfl : k = 0 ∨ k = 1 ∨ k = 2 := by omega
  · simp
  · rw [if_neg (by omega), if_pos rfl]
  · rw [if_neg (by omega), if_neg (by omega), if_pos rfl]

/-- A `Completed` execution of a well-formed form has loaded the structure at the old `R[n]` (R90 stages 4 and 5). -/
theorem completed_structureLoaded (i : Instr) (s : State) (h : i.wellFormed = true) :
    let c := operandsOf i
    StructureLoaded s (completed c s) c.d c.inc c.index
      (fun k => s.readValue (s.r c.n + BitVec.ofNat 32 (k * c.ebytes)) c.ebytes) := by
  intro c k hk j hj
  rw [completed_d_element i s h k hk, setElem_getLsbD _ _ _ _ j hj]
  rfl

/-- What a `Completed` execution of a well-formed form leaves in the base register (R97, R98, R99). -/
theorem completed_r_base (i : Instr) (s : State) (h : i.wellFormed = true) :
    let c := operandsOf i
    (completed c s).r c.n =
      if c.m = 15 then s.r c.n
      else if c.m = 13 then s.r c.n + BitVec.ofNat 32 (3 * c.ebytes)
      else s.r c.n + s.r c.m := by
  intro c
  have hn : c.n < 15 := wellFormed_n_lt i h
  rw [completed_r c s c.n hn, writeBack_r c s hn]
  by_cases h15 : c.m = 15 <;> simp [h15]

/-- A `Completed` execution of a well-formed form keeps every general-purpose register but the base (R21, R34). -/
theorem completed_r_ne_base (i : Instr) (s : State) (h : i.wellFormed = true) (k : Nat) (hk : k < 15)
    (hne : k ≠ (operandsOf i).n) : (completed (operandsOf i) s).r k = s.r k := by
  rw [completed_r _ s k hk, writeBack_r _ s (wellFormed_n_lt i h), if_neg fun hb => hne hb.1]

/-- No exception writes back a base: every fault leaves the general-purpose registers as they were (R125, R128). -/
theorem exec_fault_regs (i : Instr) (s : State) (f : Fault) (h : exec i s = .fault f) :
    (stateAfter f s).regs = s.regs := by
  rw [exec_eq_execute] at h
  obtain ⟨rfl, -⟩ | rfl | he | ⟨info, rfl, -⟩ := execute_fault _ _ _ _ h
  · rfl
  · rfl
  · obtain ⟨rfl, -⟩ | ⟨rfl, -⟩ := enableFault_cases s f he <;> rfl
  · rfl

end Sys2Proof.Machine
end

section
/-! The three addressing variants: Offset, Post-indexed (immediate) and Post-indexed (register)
(40_vld3_single_lane.md R97 to R99). -/

namespace Sys2Proof.Machine

/-- Settles O29: with `m = 15` stage 6 writes nothing, so the base is kept like every other register. -/
theorem offsetVariantKeepsBase : Obligations.OffsetVariantKeepsBase := by
  intro i s hready hm
  have hwf := hready.decodable
  refine ⟨_, ready_completes i s hready, completed_structureLoaded i s hwf, fun k hk => ?_⟩
  by_cases hkn : k = (operandsOf i).n
  · rw [hkn, completed_r_base i s hwf, if_pos hm]
  · exact completed_r_ne_base i s hwf k hk hkn

/-- Settles O30: with `m = 13` stage 6 adds the size of the structure to the base; a fault comes before stage 6. -/
theorem postIndexedImmediateAddsStructureSize : Obligations.PostIndexedImmediateAddsStructureSize := by
  refine ⟨fun i s hready hm => ?_, fun i s f _ hf => exec_fault_regs i s f hf⟩
  have hwf := hready.decodable
  refine ⟨_, ready_completes i s hready, completed_structureLoaded i s hwf, ?_, ?_, completed_r_ne_base i s hwf⟩
  · rw [completed_r_base i s hwf, if_neg (by omega), if_pos hm, BitVec.toNat_add, BitVec.toNat_ofNat, Nat.add_mod_mod]
  · obtain ⟨he | he | he, -⟩ := operands_bounds i <;> rw [he] <;> rfl

/-- Settles O31: with any other `m` stage 6 adds `R[m]`, read before the base is written, so `m = n` is no exception. -/
theorem postIndexedRegisterAddsIndex : Obligations.PostIndexedRegisterAddsIndex := by
  refine ⟨fun i s hready hm13 hm15 => ?_, fun i s f _ _ hf => exec_fault_regs i s f hf⟩
  have hwf := hready.decodable
  refine ⟨_, ready_completes i s hready, completed_structureLoaded i s hwf, ?_, completed_r_ne_base i s hwf⟩
  rw [completed_r_base i s hwf, if_neg hm15, if_neg hm13, BitVec.toNat_add]

end Sys2Proof.Machine
end

section
/-! The lane law (40_vld3_single_lane.md R100): its mask as a shifted difference, and lane writes to distinct registers. -/

namespace Sys2Proof.Machine

/-- The lane law with its mask written `(1 << w) - 1`, as R100 has it. -/
theorem setElem_eq_shifted_mask (v : DWord) (e w : Nat) (x : BitVec w) :
    setElem v e w x = (v &&& ~~~(((1#64 <<< w) - 1#64) <<< (w * e))) ||| (x.setWidth 64 <<< (w * e)) := by
  have hpow : 1#64 <<< w = BitVec.ofNat 64 (2 ^ w) := by
    apply BitVec.eq_of_toNat_eq
    simp [Nat.one_shiftLeft]
  rw [setElem, hpow, BitVec.ofNat_sub_ofNat_of_le _ _ (by decide) Nat.one_le_two_pow]

/-- Writes to distinct SIMD&FP registers commute. -/
theorem State.setD_comm (s : State) (r r' : Nat) (v v' : DWord) (h : r ≠ r') :
    (s.setD r v).setD r' v' = (s.setD r' v').setD r v := by
  have hcells : (s.dregs.setIfInBounds r v).setIfInBounds r' v' = (s.dregs.setIfInBounds r' v').setIfInBounds r v :=
    Vector.toArray_inj.1 (by simpa using Array.setIfInBounds_comm v v' h)
  simp only [State.setD, hcells]

/-- Lane writes to distinct registers commute: neither reads the register that the other writes (R100). -/
theorem State.setLane_comm (c : Operands) (s : State) (r r' : Nat) (x y : BitVec (8 * c.ebytes)) (h : r ≠ r') :
    (s.setLane c r x).setLane c r' y = (s.setLane c r' y).setLane c r x := by
  simp only [State.setLane, State.d_setD_ne _ _ _ _ h, State.d_setD_ne _ _ _ _ h.symm, State.setD_comm _ _ _ _ _ h]

/-- The element of every form is 8, 16 or 32 bits wide and its lane is one of the `64/w` (R11, R65). -/
theorem lane_bounds (i : Instr) :
    let w := 8 * (operandsOf i).ebytes
    (w = 8 ∨ w = 16 ∨ w = 32) ∧ (operandsOf i).index < 64 / w := by
  obtain ⟨he | he | he, hindex, -⟩ := operands_bounds i <;> rw [he] at hindex ⊢ <;> omega

/-- Settles O39: the register numbers rise by `inc`, and each register holds what stage 5 wrote. -/
theorem laneLawOnCompletion : Obligations.LaneLawOnCompletion := by
  refine ⟨fun i s hready => ?_, fun c s r r' x y h => State.setLane_comm c s r r' x y h⟩
  intro c w law
  have hinc : 1 ≤ c.inc := one_le_inc i
  obtain ⟨hwidth, hindex⟩ := lane_bounds i
  have hlane (k : Nat) (hk : k < 3) : (completed c s).d (c.d + k * c.inc) =
      law (s.d (c.d + k * c.inc)) (s.readValue (elemAddr c s k) c.ebytes) :=
    (completed_d_element i s hready.decodable k hk).trans (setElem_eq_shifted_mask _ _ _ _)
  have hlane0 := hlane 0 (by decide)
  have hlane1 := hlane 1 (by decide)
  have hlane2 := hlane 2 (by decide)
  rw [Nat.zero_mul, Nat.add_zero, elemAddr_zero] at hlane0
  rw [← Operands.d2_eq, elemAddr, Nat.one_mul] at hlane1
  rw [← Operands.d3_eq, elemAddr] at hlane2
  exact ⟨hwidth, Nat.lt_add_of_pos_right hinc, Nat.lt_add_of_pos_right hinc, hindex,
    _, ready_completes i s hready, hlane0, hlane1, hlane2⟩

end Sys2Proof.Machine
end

section
/-! The exceptions of stages 2 and 3: a must-be-zero bit of `index_align` (60_exceptions.md R121) and the enable check
(R122). -/

namespace Sys2Proof.Machine

/-- `index_align[0] != 0` as one bit: the UNDEFINED test of the 8-bit and 16-bit forms (R65). -/
theorem extractLsb'_zero_one_bne_zero (ia : BitVec 4) : (ia.extractLsb' 0 1 != 0#1) = ia.getLsbD 0 := by
  revert ia
  decide

/-- `index_align[1:0] != 00` as two bits: the UNDEFINED test of the 32-bit forms (R65). -/
theorem extractLsb'_zero_two_bne_zero (ia : BitVec 4) :
    (ia.extractLsb' 0 2 != 0#2) = (ia.getLsbD 0 || ia.getLsbD 1) := by
  revert ia
  decide

/-- The UNDEFINED test of a form holds exactly where a must-be-zero bit of its `index_align` is set (R65, R121). -/
theorem reserved_iff (i : Instr) :
    (operandsOf i).reserved = true ↔
      ((operandsOf i).ebytes ≠ 4 ∧ (indexAlignOf i).getLsbD 0 = true) ∨
        ((operandsOf i).ebytes = 4 ∧ ((indexAlignOf i).getLsbD 0 = true ∨ (indexAlignOf i).getLsbD 1 = true)) := by
  cases i <;>
    simp [operandsOf, indexAlignOf, decode8, decode16, decode32, extractLsb'_zero_one_bne_zero,
      extractLsb'_zero_two_bne_zero]

/-- The UNDEFINED test comes first in stage 2: where it holds, no other operand is looked at (R72, R121). -/
theorem conditionHeld_reserved (c : Operands) (s : State) (h : c.reserved = true) :
    conditionHeld c s = .fault (.undefined .indexAlign) := by
  rw [conditionHeld, decodeTests, if_pos h, raise]

/-- An execution that ends in `Undefined(IndexAlign)` is of a form whose UNDEFINED test holds (R121). -/
theorem reserved_of_exec_indexAlign (i : Instr) (s : State) (h : exec i s = .fault (.undefined .indexAlign)) :
    (operandsOf i).reserved = true := by
  rw [exec_eq_execute] at h
  obtain ⟨-, hr⟩ | hd3 | he | ⟨info, ha, -⟩ := execute_fault _ _ _ _ h
  · exact hr
  · cases hd3
  · obtain ⟨hc, -⟩ | ⟨hc, -⟩ := enableFault_cases s _ he <;> cases hc
  · cases ha

/-- Settles O14: the UNDEFINED test is the first of stage 2, and no other stage answers its exception. -/
theorem reservedIndexAlignIsUndefined : Obligations.ReservedIndexAlignIsUndefined := by
  refine ⟨fun i s hset hcond hbits => ?_, fun i s h => (reserved_iff i).1 (reserved_of_exec_indexAlign i s h)⟩
  rw [exec_of_condition i s hset hcond]
  exact conditionHeld_reserved _ s ((reserved_iff i).2 hbits)

/-- The exception of stage 3 ends the execution of a well-formed form, before any read (R90, R122). -/
theorem exec_of_enableFault (i : Instr) (s : State) (f : Fault) (hw : i.wellFormed = true)
    (hset : s.instrSet = i.instrSet) (hcond : conditionPassed i.instrSet s = some true) (hf : enableFault s = some f) :
    exec i s = .fault f := by
  rw [exec_of_condition i s hset hcond, conditionHeld, decodeTests_of_wellFormed i s hw]
  simp only [checkReadWrite, hf, raise]

/-- Settles O17: a well-formed form passes stage 2, and stage 3 raises the enable check's answer. -/
theorem disabledAdvSIMDRaises : Obligations.DisabledAdvSIMDRaises := by
  refine fun i s hw hset hcond => ⟨fun hcheck => ?_, fun hcheck => ?_⟩ <;>
    exact exec_of_enableFault i s _ hw hset hcond (by simp only [enableFault, hcheck])

end Sys2Proof.Machine
end

section
/-! The encoder and the decoder as inverses (30_encoding.md R60 to R66, R71, 20_memory.md R43): an instruction is its
instruction set, its `size` and its operand fields, and a word of the space is those fields beside the fixed bits. -/

namespace Sys2Proof

open Machine

/-! ### The instruction of given fields -/

/-- `size` values other than `11` name the three encodings (R64). -/
theorem size_cases {size : BitVec 2} (h : size ≠ 3#2) : size = 0#2 ∨ size = 1#2 ∨ size = 2#2 := by
  revert size
  decide

/-- The encoder puts each field where the decoder finds it (R61). -/
theorem encode_instrOfFields (set : InstrSet) {size : BitVec 2} (h : size ≠ 3#2) (dvd : BitVec 5) (rn ia rm : BitVec 4) :
    encode (instrOfFields set size dvd rn ia rm) = wordOfFields set size dvd rn ia rm := by
  obtain rfl | rfl | rfl := size_cases h <;> cases set <;> simp only [instrOfFields, pickVariant] <;>
    split_ifs <;> simp_all [encode]

theorem instrSet_instrOfFields (set : InstrSet) (size : BitVec 2) (dvd : BitVec 5) (rn ia rm : BitVec 4) :
    (instrOfFields set size dvd rn ia rm).instrSet = set := by
  cases set <;> simp only [instrOfFields, pickVariant] <;> split_ifs <;> rfl

/-- The decoder names the register variant only where `Rm` is neither 13 nor 15 (R66). -/
theorem encodable_instrOfFields (set : InstrSet) (size : BitVec 2) (dvd : BitVec 5) (rn ia rm : BitVec 4) :
    (instrOfFields set size dvd rn ia rm).encodable = true := by
  cases set <;> simp only [instrOfFields, pickVariant] <;> split_ifs <;> simp_all [Instr.encodable, indexRegOk]

/-- The `size` field of an instruction, from its element size (R64). -/
def sizeField (i : Instr) : BitVec 2 := BitVec.ofNat 2 ((operandsOf i).ebytes / 2)

theorem sizeField_ne_three (i : Instr) : sizeField i ≠ 3#2 := by
  obtain ⟨h | h | h, -⟩ := operands_bounds i <;> rw [sizeField, h] <;> decide

/-- An encodable instruction is the one of its own fields (R62 to R66). -/
theorem instrOfFields_of_encodable (i : Instr) (h : i.encodable = true) :
    let c := operandsOf i
    instrOfFields i.instrSet (sizeField i) (BitVec.ofNat 5 c.d) (BitVec.ofNat 4 c.n) (indexAlignOf i) (BitVec.ofNat 4 c.m) =
      i := by
  cases i <;>
    simp_all [sizeField, operandsOf, decode8, decode16, decode32, indexAlignOf, Instr.instrSet, instrOfFields, pickVariant,
      Instr.encodable, indexRegOk]

/-! ### The word and its fields -/

/-- A word is its fields side by side (R61). -/
theorem fields_append (w : Word) :
    field w 24 8 ++ field w 23 1 ++ field w 22 1 ++ field w 20 2 ++ field w 16 4 ++ field w 12 4 ++ field w 10 2 ++
      field w 8 2 ++ field w 4 4 ++ field w 0 4 = w := by
  apply BitVec.eq_of_getLsbD_eq
  intro i hi
  simp only [field, BitVec.getLsbD_append, BitVec.getLsbD_extractLsb']
  interval_cases i <;> simp

theorem inSpace_iff (set : InstrSet) (w : Word) :
    inSpace set w = true ↔
      field w 24 8 = opcodeByte set ∧ field w 23 1 = 1#1 ∧ field w 20 2 = 2#2 ∧ field w 8 2 = 2#2 := by
  simp [inSpace, and_assoc]

/-- A word of the space is the word of its own fields (R62, R63). -/
theorem wordOfFields_of_inSpace (set : InstrSet) (w : Word) (h : inSpace set w = true) :
    wordOfFields set (field w 10 2) (field w 22 1 ++ field w 12 4) (field w 16 4) (field w 4 4) (field w 0 4) = w := by
  obtain ⟨h24, h23, h20, h8⟩ := (inSpace_iff set w).1 h
  have hw := fields_append w
  rw [h24, h23, h20, h8] at hw
  rw [wordOfFields, BitVec.extractLsb'_append_eq_left, BitVec.extractLsb'_append_eq_right, hw]

/-- What the decoder accepts: the words of the space whose `size` is not `11` (R62, R63, R71). -/
theorem decode_eq_ok_iff (set : InstrSet) (w : Word) (i : Instr) :
    decode set w = .ok i ↔ inSpace set w = true ∧ field w 10 2 ≠ 3#2 ∧
      i = instrOfFields set (field w 10 2) (field w 22 1 ++ field w 12 4) (field w 16 4) (field w 4 4) (field w 0 4) := by
  unfold decode
  split_ifs with hspace hsize
  · simp [hsize]
  · simp [hspace, hsize, eq_comm (a := i)]
  · simp [hspace]

/-! ### The bytes of a word -/

/-- `1111 1001` starts a 32-bit T32 instruction (R73). -/
theorem startsT32Wide_opcodeByte (b : Byte) : startsT32Wide (opcodeByte .t32 ++ b) = true := by
  revert b
  decide

/-- The bytes of a word of the space decode as the word does: no T32 one of them is a 16-bit instruction (R43, R73). -/
theorem decodeBytes_of_inSpace (set : InstrSet) (w : Word) (h : inSpace set w = true) :
    decodeBytes set (bytesOfValue set w) = decode set w := by
  obtain ⟨h24, -⟩ := (inSpace_iff set w).1 h
  cases set with
  | a32 => exact congrArg (decode .a32) (valueOfBytes_a32 w)
  | t32 =>
    have hwide : startsT32Wide (field w 24 8 ++ field w 16 8) = true := h24 ▸ startsT32Wide_opcodeByte _
    simp only [decodeBytes, bytesOfValue, hwide, valueOfBytes_t32, Bool.true_eq_false, and_false, if_false]

/-! ### The round trip -/

/-- Settles O1: the fields of the encoded word read back as they were put in, and its bytes are read as the word. -/
theorem encodedInstrDecodesToItself : Obligations.EncodedInstrDecodesToItself := by
  intro i hi
  have hfields := instrOfFields_of_encodable i hi
  have hword : decode i.instrSet (encode i) = .ok i := by
    rw [← hfields, encode_instrOfFields _ (sizeField_ne_three i), instrSet_instrOfFields,
      decode_wordOfFields _ _ _ _ _ _ (sizeField_ne_three i)]
  obtain ⟨hspace, -⟩ := (decode_eq_ok_iff _ _ _).1 hword
  exact ⟨hword, (decodeBytes_of_inSpace _ _ hspace).trans hword⟩

/-- Settles O2: an accepted word is the word of its fields, and the instruction is that of the same fields. -/
theorem decodedWordIsItsEncoding : Obligations.DecodedWordIsItsEncoding := by
  intro set w i h
  obtain ⟨hspace, hsize, rfl⟩ := (decode_eq_ok_iff set w i).1 h
  exact ⟨(encode_instrOfFields set hsize _ _ _ _).trans (wordOfFields_of_inSpace set w hspace),
    instrSet_instrOfFields .., encodable_instrOfFields ..⟩

end Sys2Proof
end

section
/-! What every execution keeps (10_state.md R21 to R25, R34 to R36; 60_exceptions.md R125, R128): the frames of a next state
and of the state that a fault leaves, the invariant of a step, and the state after reset, which meets it. -/

namespace Sys2Proof.Machine

/-! ### Next states -/

/-- Every next state is the advance of a state that differs from the one before in the register files and the count of draws
alone (R106). -/
theorem exec_next_advance (i : Instr) (s t : State) (h : exec i s = .next t) :
    ∃ u : State, t = u.advance ∧ u = { s with regs := u.regs, dregs := u.dregs, draws := u.draws } := by
  rw [exec_eq_execute] at h
  obtain ⟨u, hu, ht⟩ | ⟨rfl, -⟩ := execute_next _ _ _ _ h
  · have hs : u = { s with draws := u.draws } := by obtain rfl | rfl | rfl := hu <;> rfl
    obtain rfl | ⟨rfl, -⟩ := ht
    · exact ⟨u, rfl, by rw [hs]⟩
    · exact ⟨_, rfl, by rw [drawnRegs_eq, hs]; rfl⟩
  · exact ⟨_, completed_eq _ _, rfl⟩

/-- Settles O34: `pc` and `ITSTATE` are those that the advance leaves. -/
theorem everyNextStateIsSequential : Obligations.EveryNextStateIsSequential := by
  intro i s t h
  obtain ⟨u, rfl, hu⟩ := exec_next_advance i s t h
  rw [State.advance_pc, State.advance_itstate, hu]
  exact ⟨BitVec.toNat_add _ _, rfl⟩

/-- Settles O35: stage 6 and the registers-UNKNOWN behaviour write the base alone, and only where `m` is not 15. -/
theorem onlyTheBaseIsWritten : Obligations.OnlyTheBaseIsWritten := by
  intro i s t h k hk hbase
  rw [exec_eq_execute] at h
  obtain ⟨u, hu, ht⟩ | ⟨rfl, -, hnone, -⟩ := execute_next _ _ _ _ h
  · have hs : u.r k = s.r k := by obtain rfl | rfl | rfl := hu <;> rfl
    obtain rfl | ⟨rfl, -⟩ := ht
    · rw [State.r_advance _ _ hk, hs]
    · rw [unknownRegs, State.r_advance _ _ hk, State.r_tick, drawnRegs_r _ _ _ hbase, hs]
  · obtain ⟨-, hn15, -⟩ := (decodeTests_eq_none _ _).1 hnone
    obtain ⟨-, -, -, -, hn16, -⟩ := operands_bounds i
    rw [completed_r _ _ _ hk, writeBack_r _ _ (by omega), if_neg (by tauto)]

/-! ### Faults -/

/-- What a Data Abort leaves (R128): the three destinations drawn. -/
theorem abortState_eq (c : Operands) (s : State) :
    abortState c s = { s with dregs := (abortState c s).dregs, draws := s.draws + 1 } := rfl

theorem abortState_d (c : Operands) (s : State) (r : Nat) (h1 : r ≠ c.d) (h2 : r ≠ c.d2) (h3 : r ≠ c.d3) :
    (abortState c s).d r = s.d r := by
  simp [abortState, h1.symm, h2.symm, h3.symm]

/-- When an execution ends in a Data Abort, and with what (R124, R128). -/
theorem exec_dataAbort (i : Instr) (s : State) (info : FaultInfo) (after : State)
    (h : exec i s = .fault (.dataAbort info after)) :
    after = abortState (operandsOf i) s ∧ info ∈ readAborts (operandsOf i) s ∧
      conditionPassed i.instrSet s = some true ∧ decodeTests (operandsOf i) s = none ∧ enableFault s = none := by
  rw [exec_eq_execute] at h
  obtain ⟨hf, -⟩ | hf | hf | ⟨info', hf, hrest⟩ := execute_fault _ _ _ _ h
  · cases hf
  · cases hf
  · obtain ⟨hc, -⟩ | ⟨hc, -⟩ := enableFault_cases _ _ hf <;> cases hc
  · cases hf
    exact ⟨rfl, hrest⟩

/-- THE FRAME OF A FAULT: the state it leaves differs from the one before in the SIMD&FP registers and the count of draws
alone (R125, R128). -/
theorem exec_fault_eq (i : Instr) (s : State) (f : Fault) (h : exec i s = .fault f) :
    stateAfter f s = { s with dregs := (stateAfter f s).dregs, draws := (stateAfter f s).draws } := by
  cases f with
  | undefined cause => rfl
  | hypTrapAdvSIMD => rfl
  | dataAbort info after =>
    obtain ⟨rfl, -⟩ := exec_dataAbort i s info after h
    exact abortState_eq _ _

/-- Settles O36: both frames leave the control state and memory out. -/
theorem controlAndMemoryNeverWritten : Obligations.ControlAndMemoryNeverWritten := by
  refine fun i s => ⟨fun t h => ?_, fun f h => ?_⟩
  · rw [exec_next_eq i s t h]
    exact ⟨⟨rfl, rfl, rfl, rfl, rfl, rfl, rfl, rfl, rfl, rfl, rfl, rfl⟩, fun a => rfl⟩
  · rw [exec_fault_eq i s f h]
    exact ⟨⟨rfl, rfl, rfl, rfl, rfl, rfl, rfl, rfl, rfl, rfl, rfl, rfl⟩, fun a => rfl⟩

/-- Settles O37: only a Data Abort writes, and only its three destinations. -/
theorem faultsArePrecise : Obligations.FaultsArePrecise := by
  intro i s f h t
  have hdregs (r : Nat) (hr : (∀ info after, f ≠ .dataAbort info after) ∨
      (r ≠ (operandsOf i).d ∧ r ≠ (operandsOf i).d2 ∧ r ≠ (operandsOf i).d3)) : t.d r = s.d r := by
    cases f with
    | undefined cause => rfl
    | hypTrapAdvSIMD => rfl
    | dataAbort info after =>
      obtain ⟨rfl, -⟩ := exec_dataAbort i s info after h
      obtain hr | ⟨h1, h2, h3⟩ := hr
      · exact absurd rfl (hr info _)
      · exact abortState_d _ s r h1 h2 h3
  have hframe : t = _ := exec_fault_eq i s f h
  refine ⟨?_, ?_, ?_, ?_, ?_, fun r _ => hdregs r⟩ <;> rw [hframe]
  exact fun a => rfl

/-! ### Steps -/

/-- A step that answers a next state is the execution of an instruction where one can stand (R22, R43). -/
theorem step_next (s t : State) (h : step s = .next t) : s.pcAligned = true ∧ ∃ i, exec i s = .next t := by
  unfold step at h
  split at h
  · split at h
    · exact ⟨by assumption, _, h⟩
    · cases h
  · cases h

/-- A consistent `ITSTATE` advances to a consistent one (R24). -/
theorem currentCond_itAdvance (it : BitVec 8) (h : currentCond it ≠ none) : currentCond (itAdvance it) ≠ none := by
  revert it
  decide

/-- Settles O49: `pc` advances by 4, memory is kept, and `ITSTATE` is kept or advanced. -/
theorem stepKeepsInv : Obligations.StepKeepsInv := by
  intro s t hinv h
  obtain ⟨-, i, hexec⟩ := step_next s t h
  obtain ⟨hpc, hit⟩ := everyNextStateIsSequential i s t hexec
  have hframe := exec_next_eq i s t hexec
  refine ⟨?_, ?_, ?_⟩
  · have halign := hinv.pc
    have ht : t.t = s.t := by rw [hframe]
    simp only [State.pcAligned, ht, hpc, beq_iff_eq] at halign ⊢
    cases hst : s.t <;> simp only [hst, if_true, Bool.false_eq_true, if_false] at halign ⊢ <;> omega
  · rw [hframe]
    exact hinv.mem
  · rw [hit]
    split
    · exact currentCond_itAdvance _ hinv.itstate
    · exact hinv.itstate

/-- Settles O52: a step changes nothing that the enable check or a list of regions looks at. -/
theorem enableAndFaultPremisesPreserved : Obligations.EnableAndFaultPremisesPreserved := by
  intro s t h
  obtain ⟨-, i, hexec⟩ := step_next s t h
  rw [exec_next_eq i s t hexec]
  refine ⟨State.advSIMDCheck_congr rfl rfl, fun hr a n => ?_⟩
  apply State.readAbort_congr hr <;> rfl

/-! ### Reset -/

/-- Settles O50. -/
theorem resetMeetsInv : Obligations.ResetMeetsInv :=
  ⟨by decide, reset_mem_wf, by decide⟩

/-- The empty list of regions aborts no access (R54). -/
theorem State.memFault_no_regions (s : State) (h : s.params.memFault = .regions []) (a : Word) (n : Nat) :
    s.memFault a n = none := by
  simp [State.memFault, h, State.regionFault]

/-- Settles O51: each clause is a field of the state after reset. -/
theorem resetState : Obligations.ResetState := by
  refine ⟨by decide, by decide, rfl, rfl, rfl, rfl, rfl, rfl, rfl, rfl, rfl, rfl, rfl, rfl, rfl, fun a => rfl, rfl, ?_⟩
  exact State.memFault_no_regions _ rfl

end Sys2Proof.Machine
end

section
/-! The bits of a word (30_encoding.md R62 to R67, R71): the Decode block's constants as numbers of the word, the words
outside the space, and the words of the space that are another instruction. -/

namespace Sys2Proof

open Machine

/-! ### The constants as numbers -/

/-- The lane number is the top of `index_align`, above the spacing and must-be-zero bits (R65). -/
theorem index_bits (ia : BitVec 4) :
    (ia.extractLsb' 1 3).toNat = ia.toNat / 2 ∧ (ia.extractLsb' 2 2).toNat = ia.toNat / 4 ∧
      (ia.extractLsb' 3 1).toNat = ia.toNat / 8 := by
  revert ia
  decide

/-- The spacing bit of the 16-bit and the 32-bit forms (R67). -/
theorem spacing_bits (ia : BitVec 4) :
    (ia.extractLsb' 1 1 = 0#1 ↔ ia.toNat / 2 % 2 = 0) ∧ (ia.extractLsb' 2 1 = 0#1 ↔ ia.toNat / 4 % 2 = 0) := by
  revert ia
  decide

/-- The must-be-zero bits (R65). -/
theorem reserved_bits (ia : BitVec 4) :
    ((ia.extractLsb' 0 1 != 0#1) = true ↔ ia.toNat % 2 ≠ 0) ∧
      ((ia.extractLsb' 0 2 != 0#2) = true ↔ ia.toNat % 4 ≠ 0) := by
  revert ia
  decide

/-- The Decode block of the instruction of given fields, by `size` (R91 to R96). -/
theorem operandsOf_instrOfFields (set : InstrSet) {size : BitVec 2} (h : size ≠ 3#2) (dvd : BitVec 5)
    (rn ia rm : BitVec 4) :
    operandsOf (instrOfFields set size dvd rn ia rm) =
      if size = 0#2 then decode8 dvd rn ia rm else if size = 1#2 then decode16 dvd rn ia rm
      else decode32 dvd rn ia rm := by
  obtain rfl | rfl | rfl := size_cases h <;> cases set <;> simp only [instrOfFields, pickVariant] <;>
    split_ifs <;> simp_all [operandsOf]

/-- The constants of the instruction of given fields, as numbers (R64 to R67). -/
theorem operands_of_fields (set : InstrSet) {size : BitVec 2} (h : size ≠ 3#2) (dvd : BitVec 5) (rn ia rm : BitVec 4) :
    let c := operandsOf (instrOfFields set size dvd rn ia rm)
    c.d = dvd.toNat ∧ c.n = rn.toNat ∧ c.m = rm.toNat ∧ c.ebytes = 2 ^ size.toNat ∧
      c.index = ia.toNat / 2 ^ (size.toNat + 1) ∧
      c.inc = (if size.toNat = 0 then 1 else if ia.toNat / 2 ^ size.toNat % 2 = 0 then 1 else 2) ∧
      (c.reserved = true ↔ ia.toNat % (if size.toNat = 2 then 4 else 2) ≠ 0) := by
  obtain ⟨hi8, hi16, hi32⟩ := index_bits ia
  obtain ⟨hs16, hs32⟩ := spacing_bits ia
  obtain ⟨hr1, hr2⟩ := reserved_bits ia
  rw [operandsOf_instrOfFields set h]
  obtain rfl | rfl | rfl := size_cases h
  · exact ⟨rfl, rfl, rfl, rfl, hi8, rfl, hr1⟩
  · exact ⟨rfl, rfl, rfl, rfl, hi16, (if_congr hs16 rfl rfl).trans (if_neg (by decide)).symm, hr1⟩
  · exact ⟨rfl, rfl, rfl, rfl, hi32, (if_congr hs32 rfl rfl).trans (if_neg (by decide)).symm, hr2⟩

theorem field_toNat (w : Word) (lo len : Nat) : (field w lo len).toNat = w.toNat / 2 ^ lo % 2 ^ len := by
  rw [field, BitVec.extractLsb'_toNat, Nat.shiftRight_eq_div_pow]

theorem dvd_toNat (b : BitVec 1) (v : BitVec 4) : (b ++ v).toNat = 16 * b.toNat + v.toNat := by
  revert b v
  decide

/-- Settles O3: an accepted word is the instruction of its fields, whose constants are numbers of the fields. -/
theorem decodedFieldsAreTheWordsFields : Obligations.DecodedFieldsAreTheWordsFields := by
  intro set w i h c size ia
  obtain ⟨-, hsize, rfl⟩ := (decode_eq_ok_iff set w i).1 h
  have hlt : size < 3 := by
    have hne : (field w 10 2).toNat ≠ 3 := fun he => hsize (BitVec.eq_of_toNat_eq he)
    rw [field_toNat] at hne
    omega
  have hc := operands_of_fields set hsize (field w 22 1 ++ field w 12 4) (field w 16 4) (field w 4 4) (field w 0 4)
  simp only [dvd_toNat, field_toNat, pow_zero, Nat.div_one] at hc
  exact ⟨hlt, hc⟩

/-- Settles O4, by running the decoder. -/
theorem specWordsDecode : Obligations.SpecWordsDecode := by
  unfold Obligations.SpecWordsDecode
  decide

/-! ### Fixed bits under a mask -/

/-- A field that a mask covers is that of the masked word. -/
theorem field_of_masked {w mask v : Word} (h : w &&& mask = v) (lo len : Nat)
    (hm : field mask lo len = BitVec.allOnes len) : field w lo len = field v lo len := by
  rw [← h, field, field, BitVec.extractLsb'_and]
  rw [field] at hm
  rw [hm, BitVec.and_allOnes]

/-- The fixed bits of the format, every other bit zero (R62, R63). -/
def spaceValue : InstrSet → Word
  | .a32 => 0xF4A00200#32
  | .t32 => 0xF9A00200#32

/-- A word of the space has the format's fixed bits (R62, R63). -/
theorem masked_of_inSpace (set : InstrSet) (w : Word) (h : inSpace set w = true) :
    w &&& 0xFFB00300#32 = spaceValue set := by
  have hmask : (0xFFB00300#32 : Word) = 0xFFB00F00#32 &&& 0xFFB00300#32 := by decide
  rw [← wordOfFields_of_inSpace set w h, hmask, ← BitVec.and_assoc, Laws.RowMatch.bits]
  generalize field w 10 2 = size
  clear h
  cases set <;> revert size <;> decide

/-- A word outside the fixed bits is refused (R62, R63, 92 D27). -/
theorem decode_noMatch (set : InstrSet) (w : Word) (h : w &&& 0xFFB00300#32 ≠ spaceValue set) :
    decode set w = .error .noMatch := by
  rw [decode, if_neg fun hspace => h (masked_of_inSpace set w hspace)]

/-- Settles O6: the space has the fixed bits of the format. -/
theorem outsideTheSpaceNothingMatches : Obligations.OutsideTheSpaceNothingMatches :=
  ⟨fun w h => decode_noMatch .a32 w h, fun w h => decode_noMatch .t32 w h⟩

/-- The fixed bits of the format with `size = 11` (R71). -/
theorem inSpace_of_size11 (set : InstrSet) (w : Word) (h : w &&& 0xFFB00F00#32 = spaceValue set ||| 0xC00#32) :
    inSpace set w = true ∧ field w 10 2 = 3#2 := by
  rw [inSpace_iff, field_of_masked h 24 8 (by decide), field_of_masked h 23 1 (by decide),
    field_of_masked h 20 2 (by decide), field_of_masked h 8 2 (by decide), field_of_masked h 10 2 (by decide)]
  cases set <;> decide

/-- The decoder names the other instruction, on the word and on its bytes (R71). -/
theorem decode_size11 (set : InstrSet) (w : Word) (h : w &&& 0xFFB00F00#32 = spaceValue set ||| 0xC00#32) :
    decode set w = .error .otherInstruction ∧ decodeBytes set (bytesOfValue set w) = .error .otherInstruction := by
  obtain ⟨hspace, hsize⟩ := inSpace_of_size11 set w h
  have hword : decode set w = .error .otherInstruction := by rw [decode, if_pos hspace, if_pos hsize]
  exact ⟨hword, (decodeBytes_of_inSpace set w hspace).trans hword⟩

/-- A step at aligned bytes that do not decode is refused with the decoder's reason (R71, R73). -/
theorem step_of_decode_error (s : State) (why : DecodeReject) (hpc : s.pcAligned = true)
    (h : decodeBytes s.instrSet s.fetchBytes = .error why) : step s = .refused (.notThisInstruction why) := by
  simp only [step, hpc, h, if_true]

/-- A step at aligned bytes that decode is the execution of the instruction (R22, R43). -/
theorem step_of_decode_ok (s : State) (i : Instr) (hpc : s.pcAligned = true)
    (h : decodeBytes s.instrSet s.fetchBytes = .ok i) : step s = exec i s := by
  simp only [step, hpc, h, if_true]

/-- Settles O5: the decoder takes the word for one of the space before it looks at `size`. -/
theorem size11IsRefusedByName : Obligations.Size11IsRefusedByName := by
  refine ⟨fun w h => (decode_size11 .a32 w h).1, fun w h => (decode_size11 .t32 w h).1, fun s w hpc hbytes h => ?_⟩
  have hvalue : w &&& 0xFFB00F00#32 = spaceValue s.instrSet ||| 0xC00#32 := by
    rw [h, State.instrSet]
    cases s.t <;> rfl
  exact step_of_decode_error s _ hpc (hbytes ▸ (decode_size11 s.instrSet w hvalue).2)

/-- Settles O47: the four bytes at `pc` are what a step fetches. -/
theorem stepRunsDecodedInstr : Obligations.StepRunsDecodedInstr := by
  intro s i hpc hbytes
  refine step_of_decode_ok s i (by simpa [State.pcAligned] using hpc) ?_
  simpa [State.fetchBytes, byteAddrs, State.instrSet, List.range_succ] using hbytes

/-- Settles O48: the two refusals of a step. -/
theorem stepRefusesWhatDoesNotDecode : Obligations.StepRefusesWhatDoesNotDecode := by
  refine ⟨step_of_decode_error, fun s hpc => ?_⟩
  have hfalse : s.pcAligned = false := by simpa [State.pcAligned] using hpc
  simp only [step, hfalse, Bool.false_eq_true, if_false]

end Sys2Proof
end

section
/-! The assembler (30_encoding.md R74 to R80): which lines it accepts, and what the accepted ones mean. -/

namespace Sys2Proof

open Machine

theorem AsmLine.condOk_iff (set : InstrSet) (l : AsmLine) :
    l.condOk set = true ↔ (set = .a32 → l.cond = none ∨ l.cond = some .al) := by
  cases set <;> simp [AsmLine.condOk]

theorem AsmLine.spacing_eq (l : AsmLine) : 1 + l.spacing = if l.doubleSpaced then 2 else 1 := by
  cases h : l.doubleSpaced <;> simp [AsmLine.spacing, h]

/-- The address operands that give an `Rm` field (R74, R78). -/
theorem AsmLine.rmField_isSome (l : AsmLine) :
    l.rmField.isSome = true ↔ ∀ rm, l.address = .postReg rm → rm ≤ 12 ∨ rm = 14 := by
  unfold AsmLine.rmField
  cases l.address with
  | offset => simp
  | postImm => simp
  | postReg rm => by_cases h : rm ≤ 12 ∨ rm = 14 <;> simp [h]

/-- What an accepted address operand's `Rm` field says (R66, R78). -/
theorem AsmLine.rmField_eq_some (l : AsmLine) (rmf : BitVec 4) (h : l.rmField = some rmf) :
    (l.address = .offset → rmf.toNat = 15) ∧ (l.address = .postImm → rmf.toNat = 13) ∧
      ∀ rm, l.address = .postReg rm → rmf.toNat = rm ∧ rm ≠ 13 ∧ rm ≠ 15 := by
  unfold AsmLine.rmField at h
  cases ha : l.address <;> rw [ha] at h
  case offset => cases h; simp
  case postImm => cases h; simp
  case postReg rm =>
    simp only [Option.ite_none_right_eq_some, Option.some.injEq] at h
    obtain ⟨hrm, rfl⟩ := h
    refine ⟨nofun, nofun, ?_⟩
    rintro _ ⟨⟩
    rw [BitVec.toNat_ofNat]
    omega

/-- The sizes, lane indices and spacings that give `size` and `index_align` fields (R76, R77, R80). -/
theorem AsmLine.sizeFields_isSome (l : AsmLine) :
    l.sizeFields.isSome = true ↔ (l.size = 8 ∧ l.index ≤ 7 ∧ l.doubleSpaced = false) ∨
      (l.size = 16 ∧ l.index ≤ 3) ∨ (l.size = 32 ∧ l.index ≤ 1) := by
  unfold AsmLine.sizeFields
  split_ifs <;> simp_all

/-- What the accepted `size` and `index_align` fields say (R65, R67, R76, R77). -/
theorem AsmLine.sizeFields_eq_some (l : AsmLine) (size : BitVec 2) (ia : BitVec 4) (h : l.sizeFields = some (size, ia)) :
    size ≠ 3#2 ∧ 8 * 2 ^ size.toNat = l.size ∧ ia.toNat / 2 ^ (size.toNat + 1) = l.index ∧
      (if size.toNat = 0 then 1 else if ia.toNat / 2 ^ size.toNat % 2 = 0 then 1 else 2) =
        (if l.doubleSpaced then 2 else 1) ∧
      ia.toNat % (if size.toNat = 2 then 4 else 2) = 0 := by
  unfold AsmLine.sizeFields AsmLine.spacing at h
  split_ifs at h <;> cases h <;> simp_all <;> omega

/-- The assembler is its checks, then the instruction of the fields (R80). -/
theorem assemble_eq_some_iff (set : InstrSet) (l : AsmLine) (i : Instr) :
    assemble set l = some i ↔
      (l.condOk set = true ∧ l.rn ≤ 14 ∧ l.dd + 2 * (1 + l.spacing) ≤ 31) ∧
        ∃ size ia rm, l.sizeFields = some (size, ia) ∧ l.rmField = some rm ∧
          i = instrOfFields set size (BitVec.ofNat 5 l.dd) (BitVec.ofNat 4 l.rn) ia rm := by
  unfold assemble
  split_ifs with h
  · cases hs : l.sizeFields <;> cases hr : l.rmField <;> simp_all [eq_comm (a := i), Prod.ext_iff]
  · simp [h]

/-- Settles O8: the assembler's checks, one by one. -/
theorem assemblerAcceptsExactlyTheSyntax : Obligations.AssemblerAcceptsExactlyTheSyntax := by
  intro set l
  rw [← AsmLine.condOk_iff, ← AsmLine.sizeFields_isSome, ← AsmLine.rmField_isSome, ← AsmLine.spacing_eq]
  simp only [Option.isSome_iff_exists, assemble_eq_some_iff]
  constructor
  · rintro ⟨i, ⟨hc, hn, hd⟩, size, ia, rm, hs, hr, -⟩
    exact ⟨hc, ⟨_, hs⟩, hd, hn, _, hr⟩
  · rintro ⟨hc, ⟨⟨size, ia⟩, hs⟩, hd, hn, rm, hr⟩
    exact ⟨_, ⟨hc, hn, hd⟩, size, ia, rm, hs, hr, rfl⟩

/-- Settles O7: each field of the line is the field of the instruction, and the checks are those of well-formedness. -/
theorem assembledLineMeansItsOperands : Obligations.AssembledLineMeansItsOperands := by
  intro set l i h c
  obtain ⟨⟨-, hn, hd⟩, size, ia, rm, hs, hr, hi⟩ := (assemble_eq_some_iff set l i).1 h
  obtain ⟨hsize, hebytes, hindex, hinc, hreserved⟩ := l.sizeFields_eq_some size ia hs
  obtain ⟨hoff, himm, hreg⟩ := l.rmField_eq_some rm hr
  have hc := operands_of_fields set hsize (BitVec.ofNat 5 l.dd) (BitVec.ofNat 4 l.rn) ia rm
  rw [← hi, hindex, hinc, hreserved] at hc
  obtain ⟨hcd, hcn, hcm, hcebytes, hcindex, hcinc, hcreserved⟩ := hc
  have hcd' : c.d = l.dd := by rw [hcd, BitVec.toNat_ofNat]; omega
  have hcn' : c.n = l.rn := by rw [hcn, BitVec.toNat_ofNat]; omega
  have hcd3 : c.d3 ≤ 31 := by
    rw [AsmLine.spacing_eq, ← hcinc] at hd
    rw [Operands.d3_eq, hcd']
    exact hd
  have hwf : i.wellFormed = true := by
    refine wellFormed_of_operands i (hi ▸ encodable_instrOfFields ..) ?_ (show c.n ≠ 15 by omega) hcd3
    simpa using hcreserved
  refine ⟨hwf, hi ▸ instrSet_instrOfFields .., by rw [hcebytes, hebytes], hcindex, hcd', hcinc, hcn', ?_⟩
  rw [hcm]
  exact ⟨hoff, himm, hreg⟩

end Sys2Proof
end

section
/-! The condition and stage 2 (10_state.md R23, R24, R35; 40_vld3_single_lane.md R103 to R105; 60_exceptions.md R130): what a
failed or inconsistent condition does, and the operands that stage 2 stops. -/

namespace Sys2Proof.Machine

/-! ### The condition -/

/-- Settles O9, over the sixteen values of the four flags. -/
theorem conditionTable : Obligations.ConditionTable := by
  unfold Obligations.ConditionTable
  decide

/-- The inconsistent `ITSTATE` has no current condition (R24). -/
theorem currentCond_inconsistent (it : BitVec 8) (hlow : it.toNat % 16 = 0) (hhigh : it.toNat / 16 ≠ 0) :
    currentCond it = none := by
  revert it
  decide

/-- Settles O11: an `ITSTATE` without a current condition is refused before stage 2. -/
theorem inconsistentITSTATEIsRefused : Obligations.InconsistentITSTATEIsRefused := by
  intro i s hset ht hinput hlow hhigh
  have hcond : conditionPassed .t32 s = none := by
    simp [conditionPassed, hinput, currentCond_inconsistent _ hlow hhigh]
  simp only [exec_eq_execute, hset, execute, State.instrSet, ht, if_true, hcond]

/-- In T32 state with the Boolean input, `advance` is the advance of `pc` and a new level of the input (92 D10, D11). -/
theorem State.advance_t32_input (s : State) (ht : s.t = true) (hc : s.params.condInput = .input) :
    s.advance = { s with pc := s.pc + 4, condIn := Config.freeCondIn s.draws, draws := s.draws + 1 } := by
  simp [State.advance, State.itStep, State.tick, ht, hc]

/-- A T32 form whose condition fails, in T32 state (R105). -/
theorem exec_t32_failed (i : Instr) (s : State) (hset : i.instrSet = .t32) (ht : s.t = true)
    (hcond : conditionPassed .t32 s = some false) : exec i s = conditionFailed (operandsOf i) s := by
  refine exec_of_condition_failed i s ?_ (hset ▸ hcond)
  rw [hset, State.instrSet, if_pos ht]

/-- Settles O12: stage 2 does not stop a well-formed form, so it is skipped. -/
theorem failedConditionSkips : Obligations.FailedConditionSkips := by
  intro i s hw hset ht hcond
  have hexec : exec i s = .next s.advance := by
    rw [exec_t32_failed i s hset ht hcond]
    simp only [conditionFailed, decodeTests_of_wellFormed i s.tick hw]
  rw [hexec]
  exact ⟨fun hc => by rw [State.advance_t32 s ht hc], fun hc => ⟨_, _, by rw [State.advance_t32_input s ht hc]⟩⟩

/-! ### What stage 2 may do -/

/-- The advance keeps the condition input where the condition is not taken from there. -/
theorem State.advance_condIn (s : State) (h : s.t = false ∨ s.params.condInput = .fromITSTATE) :
    s.advance.condIn = s.condIn := by
  cases ht : s.t with
  | false => rw [State.advance_a32 _ ht]
  | true => rw [State.advance_t32 _ ht (h.resolve_left (by simp [ht]))]

/-- The advance after any draws is the advance alone (R35, R106). -/
theorem onlyAdvanced_advance (s : State) (n : Nat) : OnlyAdvanced s { s with draws := n }.advance := by
  let u : State := { s with draws := n }
  refine ⟨u.advance.condIn, u.advance.draws, ?_, u.advance_itstate, u.advance_condIn⟩
  rw [u.advance_eq, u.advance_pc]

/-- The registers-UNKNOWN behaviour after any draws (R103). -/
theorem registersUnknown_unknownRegs (c : Operands) (s : State) (n : Nat) :
    RegistersUnknown c s (unknownRegs c { s with draws := n }) := by
  have hframe := drawnRegs_eq c { s with draws := n }
  refine ⟨?_, fun k hk hbase => ?_, fun a => ?_, ?_, ?_⟩ <;> unfold unknownRegs
  · rw [State.advance_pc, hframe]; rfl
  · rw [State.r_advance _ _ hk, State.r_tick, drawnRegs_r _ _ _ hbase]; rfl
  · rw [State.byte_advance, hframe]; rfl
  · rw [State.advance_eq, hframe]
    exact ⟨rfl, rfl, rfl, rfl, rfl, rfl, rfl, rfl, rfl, rfl, rfl, rfl⟩
  · rw [State.advance_itstate, hframe]; rfl

/-- The third permitted behaviour for `d3 > 31`, after any draws: registers UNKNOWN, or the enable check's exception
(R103, 92 D28). -/
theorem doD3_unknownRegs_cases (c : Operands) (s : State) (n : Nat) :
    (∃ t, doD3 .unknownRegs c { s with draws := n } = .next t ∧ RegistersUnknown c s t) ∨
      (s.advSIMDCheck = .undefined ∧ doD3 .unknownRegs c { s with draws := n } = .fault (.undefined .enableCheck)) ∨
      (s.advSIMDCheck = .hypTrap ∧ doD3 .unknownRegs c { s with draws := n } = .fault .hypTrapAdvSIMD) := by
  have hnext := registersUnknown_unknownRegs c s n
  simp only [doD3, raise]
  split
  · exact .inl ⟨_, rfl, hnext⟩
  · rename_i f hf
    have hcheck : ({ s with draws := n } : State).advSIMDCheck = s.advSIMDCheck := State.advSIMDCheck_congr rfl rfl
    split
    · obtain ⟨rfl, he⟩ | ⟨rfl, he⟩ := enableFault_cases _ _ hf <;> rw [hcheck] at he <;> simp [he]
    · exact .inl ⟨_, rfl, hnext⟩

/-- `d3 > 31`, after any draws, does what the setting of `CU_d3` admits (R103, 92 D14). -/
theorem admittedAbove31_d3Above31 (c : Operands) (s : State) (n : Nat) :
    AdmittedAbove31 s.params.cuD3 c s (d3Above31 c { s with draws := n }) := by
  unfold d3Above31
  cases hcu : s.params.cuD3 <;> simp only [AdmittedAbove31]
  case undefined => rfl
  case nop => exact ⟨_, rfl, onlyAdvanced_advance s n⟩
  case unknownRegs => exact doD3_unknownRegs_cases c s n
  case anyOf =>
    cases Config.freeD3 n
    · exact .inl rfl
    · exact .inr (.inl ⟨_, rfl, onlyAdvanced_advance s (n + 1)⟩)
    · exact .inr (.inr (doD3_unknownRegs_cases c s (n + 1)))

/-- Stage 2 on `n = 15`, where no must-be-zero bit is set (R104). -/
theorem decodeTests_baseIsR15 (c : Operands) (s : State) (hr : c.reserved = false) (hn : c.n = 15) :
    decodeTests c s = some (.refused (.unpredictable .baseIsR15)) := by
  simp [decodeTests, hr, hn]

/-- Stage 2 on `d3 > 31`, where the tests before it pass (R103). -/
theorem decodeTests_above31 (c : Operands) (s : State) (hr : c.reserved = false) (hn : c.n ≠ 15) (hd : 31 < c.d3) :
    decodeTests c s = some (d3Above31 c s) := by
  simp [decodeTests, hr, hn, hd]

/-- An instruction whose condition passes and that stage 2 stops has the outcome of stage 2 (R90). -/
theorem exec_of_decodeTests (i : Instr) (s : State) (o : Outcome) (hset : s.instrSet = i.instrSet)
    (hcond : conditionPassed i.instrSet s = some true) (h : decodeTests (operandsOf i) s = some o) : exec i s = o := by
  simp only [exec_of_condition i s hset hcond, conditionHeld, h]

/-- Settles O15: the test of the base comes before that of `d3`. -/
theorem baseR15IsRefused : Obligations.BaseR15IsRefused :=
  fun i s hset hcond hr hn => exec_of_decodeTests i s _ hset hcond (decodeTests_baseIsR15 _ s hr hn)

/-- Settles O16: no draw precedes the behaviour for `d3 > 31`. -/
theorem thirdRegisterAbove31 : Obligations.ThirdRegisterAbove31 := by
  intro i s hset hcond hr hn hd
  rw [exec_of_decodeTests i s _ hset hcond (decodeTests_above31 _ s hr hn hd)]
  exact admittedAbove31_d3Above31 _ s s.draws

/-- Settles O13: one draw decides between the skip and the outcome of stage 2. -/
theorem failedConditionOnBadPattern : Obligations.FailedConditionOnBadPattern := by
  intro i s hset ht hcond c hbad
  have hskip : OnlyAdvanced s s.tick.advance := onlyAdvanced_advance s (s.draws + 1)
  have hexec (o : Outcome) (h : decodeTests c s.tick = some o) :
      (∃ t, exec i s = .next t ∧ OnlyAdvanced s t) ∨ exec i s = o := by
    simp only [exec_t32_failed i s hset ht hcond, conditionFailed, show decodeTests (operandsOf i) s.tick = _ from h]
    split
    · exact .inl ⟨_, rfl, hskip⟩
    · exact .inr rfl
  cases hr : c.reserved with
  | true =>
    obtain hskipped | hundefined := hexec _ (by rw [decodeTests, if_pos hr])
    · exact .inl hskipped
    · exact .inr (.inl ⟨rfl, hundefined⟩)
  | false =>
    by_cases hn : c.n = 15
    · obtain hskipped | hrefused := hexec _ (decodeTests_baseIsR15 c s.tick hr hn)
      · exact .inl hskipped
      · exact .inr (.inr (.inl ⟨rfl, hn, hrefused⟩))
    · have hd : 31 < c.d3 := by simpa [hr, hn] using hbad
      obtain hskipped | hadmitted := hexec _ (decodeTests_above31 c s.tick hr hn hd)
      · exact .inl hskipped
      · exact .inr (.inr (.inr ⟨rfl, hn, hd, hadmitted ▸ admittedAbove31_d3Above31 c s (s.draws + 1)⟩))

/-! ### Hyp mode -/

/-- Without Hyp mode the enable check does not answer HypTrap (R130). -/
theorem State.advSIMDCheck_ne_hypTrap (s : State) (h : s.params.hasHyp = false) : s.advSIMDCheck ≠ .hypTrap := by
  unfold State.advSIMDCheck
  split <;> simp [h]

/-- Settles O18: the trap is the enable check's answer alone. -/
theorem noHypTrapWithoutHypMode : Obligations.NoHypTrapWithoutHypMode := by
  intro i s hhyp h
  rw [exec_eq_execute] at h
  obtain ⟨hf, -⟩ | hf | hf | ⟨info, hf, -⟩ := execute_fault _ _ _ _ h
  · cases hf
  · cases hf
  · obtain ⟨hc, -⟩ | ⟨-, hc⟩ := enableFault_cases _ _ hf
    · cases hc
    · exact s.advSIMDCheck_ne_hypTrap hhyp hc
  · cases hf

end Sys2Proof.Machine
end

section
/-! Data Aborts (20_memory.md R44, R54; 60_exceptions.md R123, R124, R128): when one is raised, what it reports and what it
leaves. -/

namespace Sys2Proof.Machine

/-- Where everything else permits the accesses and some read aborts, a well-formed form ends in a Data Abort with the
information of one of the aborting reads (R123, R124). -/
theorem exec_aborts (i : Instr) (s : State) (hw : i.wellFormed = true) (hset : s.instrSet = i.instrSet)
    (hcond : conditionPassed i.instrSet s = some true) (he : s.advSIMDCheck = .enabled) {k : Nat} (hk : k < 3)
    (ha : s.readAbort (elemAddr (operandsOf i) s k) (operandsOf i).ebytes ≠ none) :
    ∃ info, exec i s = .fault (.dataAbort info (abortState (operandsOf i) s)) ∧
      ∃ j < 3, s.readAbort (elemAddr (operandsOf i) s j) (operandsOf i).ebytes = some info := by
  have hexec : exec i s = readAndWrite (operandsOf i) s := by
    simp only [exec_of_condition i s hset hcond, conditionHeld, decodeTests_of_wellFormed i s hw, checkReadWrite,
      (enableFault_eq_none s).2 he]
  rw [hexec, readAndWrite]
  split
  · rename_i hnil
    exact absurd ((readAborts_eq_nil _ s).1 hnil k hk) ha
  · rename_i first others haborts
    obtain ⟨info, hmem, hraise⟩ := raiseDataAbort_eq (operandsOf i) s first others haborts
    exact ⟨info, hraise, mem_readAborts _ s info hmem⟩

/-- Settles O20: the abort leaves `abortState`, which draws the three destinations alone. -/
theorem abortReportsAReadAndLeavesTheRest : Obligations.AbortReportsAReadAndLeavesTheRest := by
  rintro i s hw hset hcond he ⟨k, hk, ha⟩
  obtain ⟨info, hexec, hread⟩ := exec_aborts i s hw hset hcond he hk (Option.isSome_iff_ne_none.1 ha)
  exact ⟨info, _, hexec, hread, abortState_eq _ s, fun r _ => abortState_d _ s r⟩

/-- Settles O21: the earlier stages passed, and what is reported is in the list of aborts. -/
theorem dataAbortComesLast : Obligations.DataAbortComesLast := by
  intro i s info after h
  obtain ⟨-, hmem, hcond, htests, he⟩ := exec_dataAbort i s info after h
  obtain ⟨hr, hn, hd⟩ := (decodeTests_eq_none _ s).1 htests
  exact ⟨hcond, hr, hn, hd, (enableFault_eq_none s).1 he, mem_readAborts _ s info hmem⟩

/-- Every element is aligned as the base is: the element size divides 2^32 (R40, R44). -/
theorem elemAddr_toNat_mod (i : Instr) (s : State) (k : Nat) :
    let c := operandsOf i
    (elemAddr c s k).toNat % c.ebytes = (s.r c.n).toNat % c.ebytes := by
  intro c
  unfold elemAddr
  rw [BitVec.toNat_add, BitVec.toNat_ofNat]
  obtain ⟨he | he | he, -⟩ := operands_bounds i <;> rw [show c.ebytes = _ from he] <;> omega

/-- Settles O19: every one of the three reads fails the alignment check, which comes before `MemFault`. -/
theorem strictMisalignedAccessAborts : Obligations.StrictMisalignedAccessAborts := by
  intro i s hw hset hcond he hstrict hmis
  have habort (k : Nat) : s.readAbort (elemAddr (operandsOf i) s k) (operandsOf i).ebytes =
      some { kind := .alignment, addr := elemAddr (operandsOf i) s k } := by
    rw [← elemAddr_toNat_mod i s k] at hmis
    simp [State.readAbort, hstrict, hmis]
  obtain ⟨info, hexec, j, hj, hread⟩ := exec_aborts i s hw hset hcond he (k := 0) (by decide) (by simp [habort])
  rw [habort, Option.some.injEq] at hread
  exact ⟨j, hj, _, hread ▸ hexec⟩

/-- Settles O54: the one read that `MemFault` answers for is the one reported. -/
theorem memFaultsAnswerIsReported : Obligations.MemFaultsAnswerIsReported := by
  intro i s k info hw hset hcond he hstrict hk hfault hothers
  have habort (j : Nat) : s.readAbort (elemAddr (operandsOf i) s j) (operandsOf i).ebytes =
      s.memFault (elemAddr (operandsOf i) s j) (operandsOf i).ebytes := by
    simp [State.readAbort, hstrict]
  obtain ⟨info', hexec, j, hj, hread⟩ := exec_aborts i s hw hset hcond he hk (by simp [habort, hfault])
  rw [habort] at hread
  have hjk : j = k := by
    by_contra hne
    simp [hothers j hj hne] at hread
  rw [hjk, hfault, Option.some.injEq] at hread
  exact ⟨_, hread ▸ hexec⟩

end Sys2Proof.Machine
end

section
/-! Completed executions (40_vld3_single_lane.md R90, R102; 10_state.md R34; 70_reset_and_hazards.md R141): what
the launch premises give, and the frame of it. -/

namespace Sys2Proof.Machine

/-! ### The launch premises suffice -/

/-- Settles O28: the premises give `Completed`, which has loaded the structure. -/
theorem launchPremisesSuffice : Obligations.LaunchPremisesSuffice :=
  fun i s hready => ⟨_, ready_completes i s hready, completed_structureLoaded i s hready.decodable⟩

/-- Settles O32: the index is read before the base is written. -/
theorem sameBaseAndIndexDoubles : Obligations.SameBaseAndIndexDoubles := by
  intro i s hready hmn hm13
  have hn : (operandsOf i).n < 15 := wellFormed_n_lt i hready.decodable
  refine ⟨_, ready_completes i s hready, ?_⟩
  rw [completed_r_base i s hready.decodable, if_neg (by omega), if_neg hm13, hmn, BitVec.toNat_add, Nat.two_mul]

/-- A `Completed` execution of a well-formed form keeps every SIMD&FP register but the three (R34). -/
theorem completed_d_ne (i : Instr) (s : State) (h : i.wellFormed = true) (r : Nat) (h1 : r ≠ (operandsOf i).d)
    (h2 : r ≠ (operandsOf i).d2) (h3 : r ≠ (operandsOf i).d3) : (completed (operandsOf i) s).d r = s.d r := by
  obtain ⟨-, -, hd3⟩ := wellFormed_operands i h
  rw [completed_d, loadLanes_d _ s (one_le_inc i) hd3, if_neg h1, if_neg h2, if_neg h3]

/-- A lane write keeps the bits outside the lane (R11, R100). -/
theorem setElem_getLsbD_outside (v : DWord) (e w : Nat) (x : BitVec w) (j : Nat) (hj : j < 64)
    (hout : j < w * e ∨ w * (e + 1) ≤ j) : (setElem v e w x).getLsbD j = v.getLsbD j := by
  rw [setElem_getLsbD v e w x j hj, if_neg]
  rw [Nat.mul_succ] at hout
  omega

/-- A `Completed` execution of a well-formed form keeps every bit outside the lane (R34). -/
theorem completed_d_outside_lane (i : Instr) (s : State) (h : i.wellFormed = true) (r j : Nat) (hj : j < 64)
    (hout : j < 8 * (operandsOf i).ebytes * (operandsOf i).index ∨
      8 * (operandsOf i).ebytes * ((operandsOf i).index + 1) ≤ j) :
    ((completed (operandsOf i) s).d r).getLsbD j = (s.d r).getLsbD j := by
  obtain ⟨-, -, hd3⟩ := wellFormed_operands i h
  have hlane := setElem_getLsbD_outside (j := j) (e := (operandsOf i).index) (w := 8 * (operandsOf i).ebytes)
  rw [completed_d, loadLanes_d _ s (one_le_inc i) hd3]
  split_ifs with h1 h2 h3
  · rw [hlane _ _ hj hout, h1]
  · rw [hlane _ _ hj hout, h2]
  · rw [hlane _ _ hj hout, h3]
  · rfl

/-- Settles O33: stage 5 writes the three lanes, stage 6 the base, stage 7 `pc` and `ITSTATE`. -/
theorem completedFrame : Obligations.CompletedFrame := by
  intro i s hready c
  have hwf := hready.decodable
  have hexec := ready_completes i s hready
  obtain ⟨-, hit⟩ := everyNextStateIsSequential i s _ hexec
  obtain ⟨hcontrol, hmem⟩ := (controlAndMemoryNeverWritten i s).1 _ hexec
  refine ⟨_, hexec, fun r _ => completed_d_ne i s hwf r, fun r _ j hj => completed_d_outside_lane i s hwf r j hj,
    fun k hk hbase => ?_, fun ht => ?_, fun hinput => ?_, hcontrol, hmem⟩
  · have hbase' : k ≠ c.n ∨ c.m = 15 := by simpa [Operands.wback] using hbase
    exact onlyTheBaseIsWritten i s _ hexec k hk hbase'
  · rw [hit, if_neg (by simp [ht])]
  · rw [completed_eq]
    exact State.advance_condIn _ hinput

end Sys2Proof.Machine
end

section
/-! The results of the six encodings (40_vld3_single_lane.md R91 to R99): the elements as bytes, halfwords and words of memory
(20_memory.md R41, R42), and the three address variants of each element size. -/

namespace Sys2Proof.Machine

/-! ### The value of an element by its bytes -/

/-- A register of bytes is the number of its bytes, the last one least significant. -/
theorem append_byte_toNat {w : Nat} (hi : BitVec w) (lo : Byte) : (hi ++ lo).toNat = 256 * hi.toNat + lo.toNat := by
  rw [BitVec.toNat_append, ← Nat.shiftLeft_add_eq_or_of_lt lo.isLt, Nat.shiftLeft_eq, Nat.mul_comm]

theorem readValue_one (s : State) (a : Word) : s.readValue a 1 = s.byte a := by
  simp [State.readValue, byteAddrs, leNat]

/-- The 2-byte read, in either byte order (R41, R42). -/
theorem readValue_two (s : State) (a : Word) : s.readValue a 2 = halfAt s a := by
  have hbytes : byteAddrs a 2 = [a, a + 1] := by simp [byteAddrs, List.range_succ]
  apply BitVec.eq_of_toNat_eq
  have h0 := (s.byte a).isLt
  have h1 := (s.byte (a + 1)).isLt
  cases hb : s.bigEndianData <;> simp [State.readValue, halfAt, hbytes, hb, leNat, append_byte_toNat] <;> omega

/-- The 4-byte read, in either byte order (R41, R42). -/
theorem readValue_four (s : State) (a : Word) : s.readValue a 4 = wordAt s a := by
  have hbytes : byteAddrs a 4 = [a, a + 1, a + 2, a + 3] := by simp [byteAddrs, List.range_succ]
  apply BitVec.eq_of_toNat_eq
  have h0 := (s.byte a).isLt
  have h1 := (s.byte (a + 1)).isLt
  have h2 := (s.byte (a + 2)).isLt
  have h3 := (s.byte (a + 3)).isLt
  cases hb : s.bigEndianData <;> simp [State.readValue, wordAt, hbytes, hb, leNat, append_byte_toNat] <;> omega

/-! ### The six encodings -/

/-- What stage 6 leaves in the base register, by the address variant (R97, R98, R99). -/
def baseAfter (c : Operands) (s : State) : Word :=
  if c.m = 15 then s.r c.n
  else if c.m = 13 then s.r c.n + BitVec.ofNat 32 (3 * c.ebytes)
  else s.r c.n + s.r c.m

/-- The completion of one form: the structure loaded, the base register left at `base`, the advance made (R90). -/
def CompletesWith {w : Nat} (i : Instr) (s : State) (d inc index n : Nat) (element : Nat → BitVec w) (base : Word) : Prop :=
  ∃ t, exec i s = .next t ∧ StructureLoaded s t d inc index element ∧ t.pc = s.pc + 4 ∧
    t.itstate = (if s.t = true ∧ s.params.condInput = .fromITSTATE then itAdvance s.itstate else s.itstate) ∧
    t.r n = base

theorem completesWith_of_ready (i : Instr) (s : State) (h : Ready i s) :
    let c := operandsOf i
    CompletesWith i s c.d c.inc c.index c.n (fun k => s.readValue (s.r c.n + BitVec.ofNat 32 (k * c.ebytes)) c.ebytes)
      (baseAfter c s) := by
  intro c
  have hexec := ready_completes i s h
  obtain ⟨-, hit⟩ := everyNextStateIsSequential i s _ hexec
  refine ⟨_, hexec, completed_structureLoaded i s h.decodable, ?_, hit, completed_r_base i s h.decodable⟩
  rw [completed_eq, State.advance_pc]

/-- The premises of the results beside the operands': the state runs the form and Advanced SIMD is enabled. -/
structure Launchable (i : Instr) (s : State) : Prop where
  encodable : i.encodable = true
  mode : s.instrSet = i.instrSet
  condition : conditionPassed i.instrSet s = some true
  enabled : s.advSIMDCheck = .enabled

/-- A launchable form with legal operands and a readable structure meets the launch premises of R141. -/
theorem Launchable.ready {i : Instr} {s : State} (h : Launchable i s)
    (hlegal : (operandsOf i).reserved = false ∧ (operandsOf i).n ≠ 15 ∧ (operandsOf i).d3 ≤ 31)
    (hread : PReadable (operandsOf i) s) : Ready i s := by
  obtain ⟨hr, hn, hd⟩ := hlegal
  exact ⟨wellFormed_of_operands i h.encodable hr hn hd, h.mode, h.condition, h.enabled, hread⟩

/-- The spacing of the 16-bit and the 32-bit forms by its bit (R67). -/
theorem inc_eq_of_bit (ia : BitVec 4) :
    ((if ia.extractLsb' 1 1 = 0#1 then 1 else 2) = if ia.getLsbD 1 then 2 else 1) ∧
      ((if ia.extractLsb' 2 1 = 0#1 then 1 else 2) = if ia.getLsbD 2 then 2 else 1) := by
  revert ia
  decide

section
variable {i : Instr} {s : State} {dvd : BitVec 5} {rn ia rm : BitVec 4}

/-- The 8-bit encodings A1 and T1 (R91, R94). -/
theorem completesWith_decode8 (h : Launchable i s) (hop : operandsOf i = decode8 dvd rn ia rm)
    (h0 : ia.getLsbD 0 = false) (hn : rn ≠ 15) (hd : dvd.toNat + 2 ≤ 31)
    (hf : ∀ k < 3, s.memFault (s.r rn.toNat + BitVec.ofNat 32 k) 1 = none) :
    CompletesWith i s dvd.toNat 1 (ia.toNat / 2) rn.toNat (fun k => s.byte (s.r rn.toNat + BitVec.ofNat 32 k))
      (baseAfter (decode8 dvd rn ia rm) s) := by
  have hlegal : legal8 dvd rn ia = true := by
    simp only [legal8, h0, Bool.not_false, Bool.true_and, Bool.and_eq_true, bne_iff_ne, decide_eq_true_eq]
    exact ⟨hn, hd⟩
  have hread : PReadable (decode8 dvd rn ia rm) s :=
    ⟨by simpa [elemAddr, decode8] using hf, fun _ => Nat.mod_one _⟩
  have hdone := completesWith_of_ready i s (h.ready (hop ▸ (legal8_operands dvd rn ia rm).1 hlegal) (hop ▸ hread))
  obtain ⟨hindex, -⟩ := index_bits ia
  rw [hop] at hdone
  simpa only [decode8, hindex, readValue_one, Nat.mul_one] using hdone

/-- The 16-bit encodings A2 and T2 (R92, R95). -/
theorem completesWith_decode16 (h : Launchable i s) (hop : operandsOf i = decode16 dvd rn ia rm)
    (h0 : ia.getLsbD 0 = false) (hn : rn ≠ 15) (hd : dvd.toNat + 2 * (if ia.getLsbD 1 then 2 else 1) ≤ 31)
    (hstrict : s.strictAlign = true → (s.r rn.toNat).toNat % 2 = 0)
    (hf : ∀ k < 3, s.memFault (s.r rn.toNat + BitVec.ofNat 32 (2 * k)) 2 = none) :
    CompletesWith i s dvd.toNat (if ia.getLsbD 1 then 2 else 1) (ia.toNat / 4) rn.toNat
      (fun k => halfAt s (s.r rn.toNat + BitVec.ofNat 32 (2 * k))) (baseAfter (decode16 dvd rn ia rm) s) := by
  have hlegal : legal16 dvd rn ia = true := by
    simp only [legal16, h0, Bool.not_false, Bool.true_and, Bool.and_eq_true, bne_iff_ne, decide_eq_true_eq]
    exact ⟨hn, by split at hd <;> simp_all⟩
  have hread : PReadable (decode16 dvd rn ia rm) s :=
    ⟨by simpa [elemAddr, decode16, Nat.mul_comm] using hf, hstrict⟩
  have hdone := completesWith_of_ready i s (h.ready (hop ▸ (legal16_operands dvd rn ia rm).1 hlegal) (hop ▸ hread))
  obtain ⟨-, hindex, -⟩ := index_bits ia
  obtain ⟨hinc, -⟩ := inc_eq_of_bit ia
  rw [hop] at hdone
  simpa only [decode16, hindex, hinc, readValue_two, Nat.mul_comm _ 2] using hdone

/-- The 32-bit encodings A3 and T3 (R93, R96). -/
theorem completesWith_decode32 (h : Launchable i s) (hop : operandsOf i = decode32 dvd rn ia rm)
    (h0 : ia.getLsbD 0 = false) (h1 : ia.getLsbD 1 = false) (hn : rn ≠ 15)
    (hd : dvd.toNat + 2 * (if ia.getLsbD 2 then 2 else 1) ≤ 31)
    (hstrict : s.strictAlign = true → (s.r rn.toNat).toNat % 4 = 0)
    (hf : ∀ k < 3, s.memFault (s.r rn.toNat + BitVec.ofNat 32 (4 * k)) 4 = none) :
    CompletesWith i s dvd.toNat (if ia.getLsbD 2 then 2 else 1) (ia.toNat / 8) rn.toNat
      (fun k => wordAt s (s.r rn.toNat + BitVec.ofNat 32 (4 * k))) (baseAfter (decode32 dvd rn ia rm) s) := by
  have hlegal : legal32 dvd rn ia = true := by
    simp only [legal32, h0, h1, Bool.not_false, Bool.true_and, Bool.and_eq_true, bne_iff_ne, decide_eq_true_eq]
    exact ⟨hn, by split at hd <;> simp_all⟩
  have hread : PReadable (decode32 dvd rn ia rm) s :=
    ⟨by simpa [elemAddr, decode32, Nat.mul_comm] using hf, hstrict⟩
  have hdone := completesWith_of_ready i s (h.ready (hop ▸ (legal32_operands dvd rn ia rm).1 hlegal) (hop ▸ hread))
  obtain ⟨-, -, hindex⟩ := index_bits ia
  obtain ⟨-, hinc⟩ := inc_eq_of_bit ia
  rw [hop] at hdone
  simpa only [decode32, hindex, hinc, readValue_four, Nat.mul_comm _ 4] using hdone

end

end Sys2Proof.Machine
end

section
/-! The obligations on the six encodings (40_vld3_single_lane.md R91 to R96): each form is launchable in its instruction-set
state, and its base is left as its address variant says. -/

namespace Sys2Proof.Machine

section
variable {i : Instr} {s : State}

theorem launchable_a32 (hi : i.encodable = true) (hset : i.instrSet = .a32) (ht : s.t = false)
    (he : s.advSIMDCheck = .enabled) : Launchable i s :=
  ⟨hi, by simp [State.instrSet, ht, hset], by rw [hset, conditionPassed], he⟩

theorem launchable_t32 (hi : i.encodable = true) (hset : i.instrSet = .t32) (ht : s.t = true)
    (hcond : conditionPassed .t32 s = some true) (he : s.advSIMDCheck = .enabled) : Launchable i s :=
  ⟨hi, by simp [State.instrSet, ht, hset], hset ▸ hcond, he⟩

section
variable {w d inc index n : Nat} {element : Nat → BitVec w} {base : Word}

/-- In A32 state a completion keeps `ITSTATE` (R106). -/
theorem CompletesWith.in_a32 (h : CompletesWith i s d inc index n element base) (ht : s.t = false) :
    ∃ t, exec i s = .next t ∧
      (StructureLoaded s t d inc index element ∧ t.pc = s.pc + 4 ∧ t.itstate = s.itstate) ∧ t.r n = base := by
  obtain ⟨t, hexec, hloaded, hpc, hit, hr⟩ := h
  exact ⟨t, hexec, ⟨hloaded, hpc, by simpa [ht] using hit⟩, hr⟩

/-- In T32 state a completion advances `ITSTATE` where the condition comes from there (R106). -/
theorem CompletesWith.in_t32 (h : CompletesWith i s d inc index n element base) (ht : s.t = true) :
    ∃ t, exec i s = .next t ∧
      (StructureLoaded s t d inc index element ∧ t.pc = s.pc + 4 ∧
        (s.params.condInput = .fromITSTATE → t.itstate = itAdvance s.itstate)) ∧ t.r n = base := by
  obtain ⟨t, hexec, hloaded, hpc, hit, hr⟩ := h
  exact ⟨t, hexec, ⟨hloaded, hpc, fun hc => by simpa [ht, hc] using hit⟩, hr⟩

end

/-- An `Rm` that is neither 13 nor 15 is an index register's, as a field and as a number (R66, R78). -/
theorem indexReg_of_ne {rm : BitVec 4} (h13 : rm ≠ 13) (h15 : rm ≠ 15) :
    indexRegOk rm = true ∧ rm.toNat ≠ 13 ∧ rm.toNat ≠ 15 := by
  revert rm
  decide

/-- The base that the register variant leaves (R99). -/
theorem baseAfter_register (c : Operands) (s : State) (h : c.m ≠ 13 ∧ c.m ≠ 15) :
    baseAfter c s = s.r c.n + s.r c.m := by
  rw [baseAfter, if_neg h.2, if_neg h.1]

end

/-- Settles O22: the 8-bit completion in A32 state, with the base of each variant. -/
theorem resultA1 : Obligations.ResultA1 := by
  intro s dvd rn ia rm ht h0 hn hd he hf loaded
  have hdone (i : Instr) (rmf : BitVec 4) (hi : i.encodable = true) (hset : i.instrSet = .a32)
      (hop : operandsOf i = decode8 dvd rn ia rmf) (base : Word) (hb : baseAfter (decode8 dvd rn ia rmf) s = base) :=
    (hb ▸ completesWith_decode8 (launchable_a32 hi hset ht he) hop h0 hn hd hf :
      CompletesWith i s _ _ _ _ _ base).in_a32 ht
  refine ⟨hdone (.vld3x8A1Off dvd rn ia) 15 rfl rfl rfl _ rfl, hdone (.vld3x8A1PostImm dvd rn ia) 13 rfl rfl rfl _ rfl,
    fun h13 h15 => ?_⟩
  obtain ⟨hok, hm⟩ := indexReg_of_ne h13 h15
  exact hdone (.vld3x8A1PostReg dvd rn ia rm) rm hok rfl rfl _ (baseAfter_register _ s hm)

/-- Settles O23: the 16-bit completion in A32 state, with the base of each variant. -/
theorem resultA2 : Obligations.ResultA2 := by
  intro s dvd rn ia rm ht h0 hn hd he hstrict hf loaded
  have hdone (i : Instr) (rmf : BitVec 4) (hi : i.encodable = true) (hset : i.instrSet = .a32)
      (hop : operandsOf i = decode16 dvd rn ia rmf) (base : Word) (hb : baseAfter (decode16 dvd rn ia rmf) s = base) :=
    (hb ▸ completesWith_decode16 (launchable_a32 hi hset ht he) hop h0 hn hd hstrict hf :
      CompletesWith i s _ _ _ _ _ base).in_a32 ht
  refine ⟨hdone (.vld3x16A2Off dvd rn ia) 15 rfl rfl rfl _ rfl, hdone (.vld3x16A2PostImm dvd rn ia) 13 rfl rfl rfl _ rfl,
    fun h13 h15 => ?_⟩
  obtain ⟨hok, hm⟩ := indexReg_of_ne h13 h15
  exact hdone (.vld3x16A2PostReg dvd rn ia rm) rm hok rfl rfl _ (baseAfter_register _ s hm)

/-- Settles O24: the 32-bit completion in A32 state, with the base of each variant. -/
theorem resultA3 : Obligations.ResultA3 := by
  intro s dvd rn ia rm ht h0 h1 hn hd he hstrict hf loaded
  have hdone (i : Instr) (rmf : BitVec 4) (hi : i.encodable = true) (hset : i.instrSet = .a32)
      (hop : operandsOf i = decode32 dvd rn ia rmf) (base : Word) (hb : baseAfter (decode32 dvd rn ia rmf) s = base) :=
    (hb ▸ completesWith_decode32 (launchable_a32 hi hset ht he) hop h0 h1 hn hd hstrict hf :
      CompletesWith i s _ _ _ _ _ base).in_a32 ht
  refine ⟨hdone (.vld3x32A3Off dvd rn ia) 15 rfl rfl rfl _ rfl, hdone (.vld3x32A3PostImm dvd rn ia) 13 rfl rfl rfl _ rfl,
    fun h13 h15 => ?_⟩
  obtain ⟨hok, hm⟩ := indexReg_of_ne h13 h15
  exact hdone (.vld3x32A3PostReg dvd rn ia rm) rm hok rfl rfl _ (baseAfter_register _ s hm)

/-- Settles O25: the 8-bit completion in T32 state, with the base of each variant. -/
theorem resultT1 : Obligations.ResultT1 := by
  intro s dvd rn ia rm ht hcond h0 hn hd he hf loaded
  have hdone (i : Instr) (rmf : BitVec 4) (hi : i.encodable = true) (hset : i.instrSet = .t32)
      (hop : operandsOf i = decode8 dvd rn ia rmf) (base : Word) (hb : baseAfter (decode8 dvd rn ia rmf) s = base) :=
    (hb ▸ completesWith_decode8 (launchable_t32 hi hset ht hcond he) hop h0 hn hd hf :
      CompletesWith i s _ _ _ _ _ base).in_t32 ht
  refine ⟨hdone (.vld3x8T1Off dvd rn ia) 15 rfl rfl rfl _ rfl, hdone (.vld3x8T1PostImm dvd rn ia) 13 rfl rfl rfl _ rfl,
    fun h13 h15 => ?_⟩
  obtain ⟨hok, hm⟩ := indexReg_of_ne h13 h15
  exact hdone (.vld3x8T1PostReg dvd rn ia rm) rm hok rfl rfl _ (baseAfter_register _ s hm)

/-- Settles O26: the 16-bit completion in T32 state, with the base of each variant. -/
theorem resultT2 : Obligations.ResultT2 := by
  intro s dvd rn ia rm ht hcond h0 hn hd he hstrict hf loaded
  have hdone (i : Instr) (rmf : BitVec 4) (hi : i.encodable = true) (hset : i.instrSet = .t32)
      (hop : operandsOf i = decode16 dvd rn ia rmf) (base : Word) (hb : baseAfter (decode16 dvd rn ia rmf) s = base) :=
    (hb ▸ completesWith_decode16 (launchable_t32 hi hset ht hcond he) hop h0 hn hd hstrict hf :
      CompletesWith i s _ _ _ _ _ base).in_t32 ht
  refine ⟨hdone (.vld3x16T2Off dvd rn ia) 15 rfl rfl rfl _ rfl, hdone (.vld3x16T2PostImm dvd rn ia) 13 rfl rfl rfl _ rfl,
    fun h13 h15 => ?_⟩
  obtain ⟨hok, hm⟩ := indexReg_of_ne h13 h15
  exact hdone (.vld3x16T2PostReg dvd rn ia rm) rm hok rfl rfl _ (baseAfter_register _ s hm)

/-- Settles O27: the 32-bit completion in T32 state, with the base of each variant. -/
theorem resultT3 : Obligations.ResultT3 := by
  intro s dvd rn ia rm ht hcond h0 h1 hn hd he hstrict hf loaded
  have hdone (i : Instr) (rmf : BitVec 4) (hi : i.encodable = true) (hset : i.instrSet = .t32)
      (hop : operandsOf i = decode32 dvd rn ia rmf) (base : Word) (hb : baseAfter (decode32 dvd rn ia rmf) s = base) :=
    (hb ▸ completesWith_decode32 (launchable_t32 hi hset ht hcond he) hop h0 h1 hn hd hstrict hf :
      CompletesWith i s _ _ _ _ _ base).in_t32 ht
  refine ⟨hdone (.vld3x32T3Off dvd rn ia) 15 rfl rfl rfl _ rfl, hdone (.vld3x32T3PostImm dvd rn ia) 13 rfl rfl rfl _ rfl,
    fun h13 h15 => ?_⟩
  obtain ⟨hok, hm⟩ := indexReg_of_ne h13 h15
  exact hdone (.vld3x32T3PostReg dvd rn ia rm) rm hok rfl rfl _ (baseAfter_register _ s hm)

end Sys2Proof.Machine
end

section
/-! Lanes and views (00_scope.md R11; 10_state.md R27; 40_vld3_single_lane.md R100): reading a lane after a lane write, and
the Q and S views after a write of a D register. -/

namespace Sys2Proof.Machine

/-! ### Lanes -/

theorem elem_getLsbD (v : DWord) (e w b : Nat) (hb : b < w) : (elem v e w).getLsbD b = v.getLsbD (e * w + b) := by
  simp [elem, hb]

/-- Settles O38: bit `b` of lane `j` stands at `j*w + b`, which lies in lane `i` only for `j = i`. -/
theorem laneWriteLaw : Obligations.LaneWriteLaw := by
  intro w hw v x i j hi hj
  apply BitVec.eq_of_getLsbD_eq
  intro b hb
  have hbit : j * w + b < 64 := by obtain rfl | rfl | rfl := hw <;> omega
  rw [elem_getLsbD _ _ _ _ hb, setElem_getLsbD _ _ _ _ _ hbit]
  by_cases hji : j = i
  · have hlane : w * i ≤ j * w + b ∧ j * w + b < w * i + w := by rw [hji, Nat.mul_comm]; omega
    rw [if_pos hji, if_pos hlane, hji, Nat.mul_comm w i, Nat.add_sub_cancel_left]
  · have hlane : ¬ (w * i ≤ j * w + b ∧ j * w + b < w * i + w) := by obtain rfl | rfl | rfl := hw <;> omega
    rw [if_neg hji, if_neg hlane, elem_getLsbD _ _ _ _ hb]

/-! ### Views -/

/-- A write of the low half of a Q register (R27). -/
theorem State.q_setD_even (s : State) (i : Nat) (v : DWord) (hi : i < 16) :
    (s.setD (2 * i) v).q i = (s.q i).extractLsb' 64 64 ++ v := by
  rw [State.q, State.q, State.d_setD_same _ _ _ (by omega), State.d_setD_ne _ _ _ _ (by omega),
    BitVec.extractLsb'_append_eq_left]

/-- A write of the high half of a Q register (R27). -/
theorem State.q_setD_odd (s : State) (i : Nat) (v : DWord) (hi : i < 16) :
    (s.setD (2 * i + 1) v).q i = v ++ (s.q i).extractLsb' 0 64 := by
  rw [State.q, State.q, State.d_setD_same _ _ _ (by omega), State.d_setD_ne _ _ _ _ (by omega),
    BitVec.extractLsb'_append_eq_right]

theorem State.q_setD_ne (s : State) (k j : Nat) (v : DWord) (h : j ≠ k / 2) : (s.setD k v).q j = s.q j := by
  rw [State.q, State.q, State.d_setD_ne _ _ _ _ (by omega), State.d_setD_ne _ _ _ _ (by omega)]

theorem State.sreg_setD_same (s : State) (k j : Nat) (v : DWord) (hk : k < 32) (h : j / 2 = k) :
    (s.setD k v).sreg j = v.extractLsb' (32 * (j % 2)) 32 := by
  rw [State.sreg, h, State.d_setD_same _ _ _ hk]

theorem State.sreg_setD_ne (s : State) (k j : Nat) (v : DWord) (h : j / 2 ≠ k) : (s.setD k v).sreg j = s.sreg j := by
  rw [State.sreg, State.sreg, State.d_setD_ne _ _ _ _ h.symm]

/-- Settles O40: `D[k]` is the low or the high half of `Q[k/2]`, by the parity of `k`, and `S[2k]` and `S[2k+1]`. -/
theorem qAndSViewsFollowALaneWrite : Obligations.QAndSViewsFollowALaneWrite := by
  intro s k v hk
  refine ⟨?_, fun j _ => State.q_setD_ne s k j v, fun hk16 => ⟨?_, ?_⟩, fun j _ => State.sreg_setD_ne s k j v⟩
  · obtain ⟨i, rfl | rfl⟩ := Nat.even_or_odd' k
    · rw [if_pos (by omega), show 2 * i / 2 = i by omega, State.q_setD_even s i v (by omega)]
    · rw [if_neg (by omega), show (2 * i + 1) / 2 = i by omega, State.q_setD_odd s i v (by omega)]
  · rw [State.sreg_setD_same s k _ v hk (by omega), show 2 * k % 2 = 0 by omega]
  · rw [State.sreg_setD_same s k _ v hk (by omega), show (2 * k + 1) % 2 = 1 by omega]

end Sys2Proof.Machine
end

section
/-! What an execution does not depend on (00_scope.md R14; 20_memory.md R42, R45; 40_vld3_single_lane.md R108, R110): changes of
state that it carries along. -/

namespace Sys2Proof.Machine

/-! ### Completed executions -/

/-- The base that stage 6 leaves depends on the general-purpose registers alone. -/
theorem writeBack_regs_congr (c : Operands) {s t : State} (hr : t.regs = s.regs) (hp : t.pc = s.pc) (ht : t.t = s.t) :
    (writeBack c t).regs = (writeBack c s).regs := by
  have hread := State.r_congr hr hp ht
  unfold writeBack
  split
  · split <;> simp [hr, hread]
  · exact hr

/-- The lanes that stage 5 leaves depend on the SIMD&FP registers and the three elements alone. -/
theorem loadLanes_dregs_congr (c : Operands) {s t : State} (hd : t.dregs = s.dregs)
    (hv : ∀ k < 3, t.readValue (elemAddr c t k) c.ebytes = s.readValue (elemAddr c s k) c.ebytes) :
    (loadLanes c t).dregs = (loadLanes c s).dregs := by
  simp only [loadLanes, State.setLane, State.setD_dregs, State.d, hd, hv 0 (by decide), hv 1 (by decide),
    hv 2 (by decide)]

theorem elemAddr_congr (c : Operands) {s t : State} (hr : t.regs = s.regs) (hp : t.pc = s.pc) (ht : t.t = s.t) (k : Nat) :
    elemAddr c t k = elemAddr c s k := by
  rw [elemAddr, elemAddr, State.r_congr hr hp ht]

/-- `Completed` carries along a change of state that keeps the registers and the elements and that the advance carries
along. -/
theorem completed_carries (g : State → State) (c : Operands) (s : State) (hr : (g s).regs = s.regs)
    (hd : (g s).dregs = s.dregs) (hp : (g s).pc = s.pc) (ht : (g s).t = s.t)
    (hv : ∀ k < 3, (g s).readValue (elemAddr c s k) c.ebytes = s.readValue (elemAddr c s k) c.ebytes)
    (hadv : ∀ rs ds, ({ g s with dregs := ds, regs := rs } : State).advance =
      g ({ s with dregs := ds, regs := rs } : State).advance) :
    completed c (g s) = g (completed c s) := by
  have hv' (k : Nat) (hk : k < 3) : (g s).readValue (elemAddr c (g s) k) c.ebytes =
      s.readValue (elemAddr c s k) c.ebytes := by
    rw [elemAddr_congr c hr hp ht, hv k hk]
  rw [completed_eq, completed_eq, writeBack_regs_congr c hr hp ht, loadLanes_dregs_congr c hd hv', hadv]

/-- The advance, field by field (R106; 92 D10 for the Boolean input). -/
theorem State.advance_fields (s : State) :
    s.advance =
      { s with
        pc := s.pc + 4
        itstate := if s.t = true ∧ s.params.condInput = .fromITSTATE then itAdvance s.itstate else s.itstate
        condIn := if s.t = true ∧ s.params.condInput = .input then Config.freeCondIn s.draws else s.condIn
        draws := if s.t = true ∧ s.params.condInput = .input then s.draws + 1 else s.draws } := by
  cases ht : s.t <;> cases hc : s.params.condInput <;> simp [State.advance, State.itStep, State.tick, ht, hc]

/-- Settles O44: the draws are looked at by no stage of a completed execution. -/
theorem completionTakesNoDraw : Obligations.CompletionTakesNoDraw := by
  intro i s n hready hinput
  have hready' : Ready i { s with draws := n } :=
    ⟨hready.decodable, hready.mode, hready.condition, hready.enabled, hready.readable⟩
  rw [ready_completes i s hready, ready_completes i _ hready']
  refine congrArg _ (completed_carries (fun t => { t with draws := n }) _ s rfl rfl rfl rfl (fun k _ => rfl) fun rs ds => ?_)
  have hno : ¬ (s.t = true ∧ s.params.condInput = .input) := by
    obtain ht | hc := hinput
    · simp [ht]
    · simp [hc]
  simp only [State.advance_fields, hno, if_false]

/-- Settles O45: past the enable check no stage of a completed execution looks at the mode or the Security state. -/
theorem runsAlikeInEveryModeThatIsEnabled : Obligations.RunsAlikeInEveryModeThatIsEnabled := by
  intro i s md sec hready hready'
  rw [ready_completes i s hready, ready_completes i _ hready']
  refine congrArg _
    (completed_carries (fun t => { t with mode := md, security := sec }) _ s rfl rfl rfl rfl (fun k _ => rfl) fun rs ds => ?_)
  simp only [State.advance_fields]

/-! ### Whole executions -/

/-- The three reads abort alike where they are premised to and their addresses and the alignment control agree. -/
theorem readAborts_of_alike (c : Operands) {s t : State} (h : ReadsAbortAlike c s t)
    (haddr : ∀ k, elemAddr c t k = elemAddr c s k) (hp : t.params = s.params) (hs : t.security = s.security)
    (hm : t.mode = s.mode) (ha : t.strictAlign = s.strictAlign) : readAborts c t = readAborts c s := by
  refine List.filterMap_congr fun k hk => ?_
  rw [haddr]
  obtain hregions | halike := h
  · exact State.readAbort_congr hregions hp hs hm ha _ _
  · exact halike k (by simp at hk; omega)

/-- A change of fields that no stage writes and, beside the condition and the reads, no stage looks at. -/
structure Bystander (g : State → State) : Prop where
  regs : ∀ u, (g u).regs = u.regs
  dregs : ∀ u, (g u).dregs = u.dregs
  pc : ∀ u, (g u).pc = u.pc
  t : ∀ u, (g u).t = u.t
  params : ∀ u, (g u).params = u.params
  draws : ∀ u, (g u).draws = u.draws
  strictAlign : ∀ u, (g u).strictAlign = u.strictAlign
  enableInputs : ∀ u, (g u).enableInputs = u.enableInputs
  write : ∀ u rs ds n, ({ g u with regs := rs, dregs := ds, draws := n } : State) =
    g { u with regs := rs, dregs := ds, draws := n }

namespace Bystander

variable {g : State → State} {c : Operands} {s : State}

/-- The change is carried along by a write of the register files and the count of draws. -/
theorem eq_of_write (hg : Bystander g) {u v w : State} {rs rs' : Vector Word 15} {ds ds' : Vector DWord 32} {n n' : Nat}
    (hv : v = { g u with regs := rs, dregs := ds, draws := n }) (hw : w = { u with regs := rs', dregs := ds', draws := n' })
    (hr : rs = rs') (hd : ds = ds') (hn : n = n') : v = g w := by
  rw [hv, hg.write, hr, hd, hn, ← hw]

theorem tick_comm (hg : Bystander g) (u : State) : (g u).tick = g u.tick :=
  hg.eq_of_write (u := u) rfl rfl (hg.regs u) (hg.dregs u) (congrArg (· + 1) (hg.draws u))

theorem drawnRegs_comm (hg : Bystander g) (u : State) : drawnRegs c (g u) = g (drawnRegs c u) := by
  refine hg.eq_of_write (drawnRegs_eq c (g u)) (drawnRegs_eq c u) ?_ ?_ (hg.draws u) <;>
    unfold drawnRegs <;> split <;> simp [hg.regs, hg.draws]

theorem abortState_comm (hg : Bystander g) (u : State) : abortState c (g u) = g (abortState c u) := by
  refine hg.eq_of_write (abortState_eq c (g u)) (abortState_eq c u) (hg.regs u) ?_ (congrArg (· + 1) (hg.draws u))
  simp [abortState, hg.dregs, hg.draws]

theorem enableFault_eq (hg : Bystander g) (u : State) : enableFault (g u) = enableFault u := by
  simp only [enableFault, State.advSIMDCheck_congr (hg.enableInputs u) (hg.params u)]

theorem readAborts_eq (hg : Bystander g) (h : ReadsAbortAlike c s (g s)) : readAborts c (g s) = readAborts c s :=
  readAborts_of_alike c h (elemAddr_congr c (hg.regs s) (hg.pc s) (hg.t s)) (hg.params s)
    (congrArg EnableInputs.security (hg.enableInputs s)) (congrArg EnableInputs.mode (hg.enableInputs s))
    (hg.strictAlign s)

/-- An execution carries along a change beside it that keeps the condition and the reads. -/
theorem exec_carries (hg : Bystander g) (i : Instr)
    (hcond : conditionPassed i.instrSet (g s) = conditionPassed i.instrSet s)
    (hadv : ∀ u : State, u.t = s.t → (g u).advance = g u.advance)
    (halike : ReadsAbortAlike (operandsOf i) s (g s))
    (hv : ∀ k < 3, (g s).readValue (elemAddr (operandsOf i) s k) (operandsOf i).ebytes =
      s.readValue (elemAddr (operandsOf i) s k) (operandsOf i).ebytes) :
    exec i (g s) = mapOutcome g (exec i s) := by
  rw [exec_eq_execute, exec_eq_execute]
  refine execute_carries g i.instrSet (operandsOf i) s
    { instrSet := by rw [State.instrSet, State.instrSet, hg.t]
      condition := hcond
      draws := hg.draws
      params := hg.params
      tick := hg.tick_comm
      advance := fun u ht _ => hadv u ht
      drawn := hg.drawnRegs_comm
      enable := fun u _ => hg.enableFault_eq u
      aborts := fun _ _ => hg.readAborts_eq halike
      abort := hg.abortState_comm s
      complete := fun _ _ => ?_ }
  refine completed_carries g _ s (hg.regs s) (hg.dregs s) (hg.pc s) (hg.t s) hv fun rs ds => ?_
  have hw : ({ g s with dregs := ds, regs := rs } : State) = g { s with dregs := ds, regs := rs } :=
    hg.eq_of_write (u := s) rfl rfl rfl rfl (hg.draws s)
  exact (congrArg State.advance hw).trans (hadv _ rfl)

end Bystander

/-- Settles O10: of the condition state an A32 form looks at nothing. -/
theorem a32FormsIgnoreConditionState : Obligations.A32FormsIgnoreConditionState := by
  intro i s f it b hset halike
  let g : State → State := fun t => { t with flags := f, itstate := it, condIn := b }
  by_cases ht : s.t = false
  · have hg : Bystander g := ⟨fun _ => rfl, fun _ => rfl, fun _ => rfl, fun _ => rfl, fun _ => rfl, fun _ => rfl,
      fun _ => rfl, fun _ => rfl, fun _ _ _ _ => rfl⟩
    refine hg.exec_carries i (by rw [hset]; rfl) (fun u hu => ?_) halike fun k _ => rfl
    rw [State.advance_a32 u (hu.trans ht), State.advance_a32 (g u) (hu.trans ht)]
  · have hmismatch (u : State) (hu : u.t = s.t) : exec i u = .refused .instrSetMismatch := by
      simp [exec_eq_execute, execute, hset, State.instrSet, hu, ht]
    rw [hmismatch s rfl]
    exact hmismatch (g s) rfl

/-- Settles O43: a byte reads alike in both byte orders. -/
theorem byteFormsIgnoreByteOrder : Obligations.ByteFormsIgnoreByteOrder := by
  intro i s b hbytes halike
  have hg : Bystander fun t => { t with bigEndianData := b } := ⟨fun _ => rfl, fun _ => rfl, fun _ => rfl, fun _ => rfl,
    fun _ => rfl, fun _ => rfl, fun _ => rfl, fun _ => rfl, fun _ _ _ _ => rfl⟩
  refine hg.exec_carries i rfl (fun u _ => ?_) halike fun k _ => ?_
  · simp only [State.advance_fields]
  · rw [hbytes, readValue_one, readValue_one]
    rfl

/-- The byte addresses of element `k` are those of the structure (R45). -/
theorem readValue_structure_congr (c : Operands) {s t : State} (hb : t.bigEndianData = s.bigEndianData) {k : Nat} (hk : k < 3)
    (h : ∀ j < 3 * c.ebytes, t.byte (s.r c.n + BitVec.ofNat 32 j) = s.byte (s.r c.n + BitVec.ofNat 32 j)) :
    t.readValue (elemAddr c s k) c.ebytes = s.readValue (elemAddr c s k) c.ebytes := by
  have hbytes : (byteAddrs (elemAddr c s k) c.ebytes).map t.byte = (byteAddrs (elemAddr c s k) c.ebytes).map s.byte := by
    refine List.map_congr_left fun a ha => ?_
    simp only [byteAddrs, List.mem_map, List.mem_range] at ha
    obtain ⟨j, hj, rfl⟩ := ha
    rw [elemAddr, BitVec.add_assoc, ← BitVec.ofNat_add]
    refine h _ ?_
    have hk2 : k * c.ebytes ≤ 2 * c.ebytes := Nat.mul_le_mul_right _ (by omega)
    omega
  simp only [State.readValue, hbytes, hb]

/-- Settles O46: the three reads are of the bytes of the structure. -/
theorem onlyTheStructureIsRead : Obligations.OnlyTheStructureIsRead := by
  intro i s m hm halike
  have hg : Bystander fun t => { t with mem := m } := ⟨fun _ => rfl, fun _ => rfl, fun _ => rfl, fun _ => rfl,
    fun _ => rfl, fun _ => rfl, fun _ => rfl, fun _ => rfl, fun _ _ _ _ => rfl⟩
  refine hg.exec_carries i rfl (fun u _ => ?_) halike fun k hk => ?_
  · simp only [State.advance_fields]
  · exact readValue_structure_congr (operandsOf i) (s := s) (t := { s with mem := m }) rfl hk hm

end Sys2Proof.Machine
end

section
/-! Equivalences of executions (95_test_vectors.md section 2.4): immediate write-back as register write-back by the size of the
structure, and an Offset form run twice as run once. -/

namespace Sys2Proof.Machine

/-! ### Immediate and register write-back -/

/-- Where the index register holds the size of the structure, the register variant leaves what the immediate one does
(R98, R99). -/
theorem completed_register_eq_immediate (c : Operands) (s : State) (m : Nat) (hc : c.m = 13) (h13 : m ≠ 13) (h15 : m ≠ 15)
    (hr : s.r m = BitVec.ofNat 32 (3 * c.ebytes)) : completed { c with m := m } s = completed c s := by
  have hload : loadLanes { c with m := m } s = loadLanes c s := rfl
  simp [completed, hload, writeBack, Operands.wback, Operands.registerIndex, hc, h13, h15, hr]

/-- Until stage 6 an execution looks at `m` only for whether it writes back at all (R66, R103). -/
theorem execute_m_congr (set : InstrSet) (c : Operands) (s : State) (m : Nat) (hc : c.m ≠ 15) (hm : m ≠ 15)
    (hdone : completed { c with m := m } s = completed c s) : execute set { c with m := m } s = execute set c s := by
  have hdrawn (u : State) : unknownRegs { c with m := m } u = unknownRegs c u := by
    simp [unknownRegs, drawnRegs, Operands.wback, hc, hm]
  have hd3 (u : State) : d3Above31 { c with m := m } u = d3Above31 c u := by
    have hdo (b : D3Behaviour) (v : State) : doD3 b { c with m := m } v = doD3 b c v := by
      cases b <;> simp only [doD3, hdrawn]
    simp only [d3Above31, hdo]
  have htests (u : State) : decodeTests { c with m := m } u = decodeTests c u := by
    simp only [decodeTests, hd3]
    rfl
  have hread : readAndWrite { c with m := m } s = readAndWrite c s := by
    unfold readAndWrite
    rw [hdone]
    rfl
  simp only [execute, conditionHeld, conditionFailed, checkReadWrite, htests, hread]

/-- Settles O41, encoding by encoding: the two forms differ in `m` alone. -/
theorem immediateIsRegisterWithStructureSize : Obligations.ImmediateIsRegisterWithStructureSize := by
  intro s dvd rn ia rm h13 h15 _
  obtain ⟨-, hm13, hm15⟩ := indexReg_of_ne h13 h15
  have heq (set : InstrSet) (c : Operands) (hc : c.m = 13) (hr : s.r rm.toNat = BitVec.ofNat 32 (3 * c.ebytes)) :
      execute set c s = execute set { c with m := rm.toNat } s :=
    (execute_m_congr set c s _ (by omega) hm15 (completed_register_eq_immediate c s _ hc hm13 hm15 hr)).symm
  exact ⟨heq .a32 (decode8 dvd rn ia 13) rfl, heq .a32 (decode16 dvd rn ia 13) rfl, heq .a32 (decode32 dvd rn ia 13) rfl,
    heq .t32 (decode8 dvd rn ia 13) rfl, heq .t32 (decode16 dvd rn ia 13) rfl, heq .t32 (decode32 dvd rn ia 13) rfl⟩

/-! ### Offset forms run twice -/

/-- Writing a lane twice with the same element is writing it once (R100). -/
theorem setElem_setElem (v : DWord) (e w : Nat) (x : BitVec w) : setElem (setElem v e w x) e w x = setElem v e w x := by
  apply BitVec.eq_of_getLsbD_eq
  intro j hj
  rw [setElem_getLsbD _ _ _ _ j hj, setElem_getLsbD _ _ _ _ j hj]
  split_ifs <;> rfl

/-- States whose 32 SIMD&FP registers agree have the same register file. -/
theorem dregs_eq_of_d {s t : State} (h : ∀ r < 32, t.d r = s.d r) : t.dregs = s.dregs := by
  apply Vector.ext
  intro r hr
  simpa [State.d, hr] using h r hr

/-- Stage 6 writes nothing for an Offset form (R97). -/
theorem completed_regs_offset (c : Operands) (s : State) (hm : c.m = 15) : (completed c s).regs = s.regs := by
  simp [completed_eq, writeBack, Operands.wback, hm]

section
variable (i : Instr) (s : State) (hw : i.wellFormed = true) (hm : (operandsOf i).m = 15)
include hw hm

/-- A completed Offset form leaves the addresses of its elements. -/
theorem elemAddr_completed_offset (k : Nat) :
    elemAddr (operandsOf i) (completed (operandsOf i) s) k = elemAddr (operandsOf i) s k := by
  rw [elemAddr, elemAddr, completed_r_base i s hw, if_pos hm]

/-- Completing an Offset form again leaves the SIMD&FP registers as they are (R56, R90). -/
theorem completed_completed_d (r : Nat) :
    (completed (operandsOf i) (completed (operandsOf i) s)).d r = (completed (operandsOf i) s).d r := by
  have hread (k : Nat) : (completed (operandsOf i) s).readValue (elemAddr (operandsOf i) (completed (operandsOf i) s) k)
      (operandsOf i).ebytes = s.readValue (elemAddr (operandsOf i) s k) (operandsOf i).ebytes := by
    rw [elemAddr_completed_offset i s hw hm, completed_eq, State.readValue_advance]
    rfl
  by_cases hr : ∃ k < 3, r = (operandsOf i).d + k * (operandsOf i).inc
  · obtain ⟨k, hk, rfl⟩ := hr
    refine (completed_d_element i (completed (operandsOf i) s) hw k hk).trans ?_
    rw [hread, completed_d_element i s hw k hk, setElem_setElem]
  · push Not at hr
    refine completed_d_ne i _ hw r (by simpa using hr 0 (by decide)) ?_ ?_
    · rw [Operands.d2_eq]; exact hr 1 (by decide)
    · rw [Operands.d3_eq]; exact hr 2 (by decide)

/-- After a completed Offset form a next state of the same form has the same registers: it is an advance, or it is
completed again. -/
theorem exec_completed_offset_next (u : State) (h : exec i (completed (operandsOf i) s) = .next u) :
    u.dregs = (completed (operandsOf i) s).dregs ∧ u.regs = (completed (operandsOf i) s).regs := by
  obtain ⟨-, -, hd3⟩ := wellFormed_operands i hw
  rw [exec_eq_execute] at h
  obtain ⟨v, hv, rfl | ⟨-, -, -, hd⟩⟩ | ⟨rfl, -⟩ := execute_next _ _ _ _ h
  · obtain rfl | rfl | rfl := hv <;> simp
  · omega
  · exact ⟨dregs_eq_of_d fun r _ => completed_completed_d i s hw hm r, completed_regs_offset _ _ hm⟩

end

/-- Under the launch premises no read aborts (R141). -/
theorem ready_readAborts (i : Instr) (s : State) (h : Ready i s) : readAborts (operandsOf i) s = [] := by
  refine (readAborts_eq_nil _ s).2 fun k hk => by_contra fun hne => ?_
  obtain ⟨info, hfault, -⟩ := exec_aborts i s h.decodable h.mode h.condition h.enabled hk hne
  rw [ready_completes i s h] at hfault
  cases hfault

/-- Settles O42: the second execution reads the same elements at the same addresses. -/
theorem offsetFormsAreIdempotent : Obligations.OffsetFormsAreIdempotent := by
  intro i s hready hm
  have hw := hready.decodable
  have hexec := ready_completes i s hready
  refine ⟨_, hexec, exec_completed_offset_next i s hw hm, fun ht halike => ?_⟩
  have hset : i.instrSet = .a32 := by rw [← hready.mode, State.instrSet, ht]; rfl
  have haddr := elemAddr_completed_offset i s hw hm
  have hframe := exec_next_eq i s _ hexec
  generalize completed (operandsOf i) s = t at hframe halike haddr ⊢
  refine ⟨_, exec_completes i t ?_ (by rw [hset]; rfl) hw ?_ ?_⟩
  · rw [← hready.mode, hframe]; rfl
  · rw [← hready.enabled, hframe]; exact State.advSIMDCheck_congr rfl rfl
  · rw [readAborts_of_alike (operandsOf i) halike haddr, ready_readAborts i s hready] <;> rw [hframe]

end Sys2Proof.Machine
end

section
/-! Placing an instruction (20_memory.md R43, 30_encoding.md R60): bytes stored read back, and the placed word is fetched and
decoded as the instruction. -/

namespace Sys2Proof.Machine

/-! ### Storing bytes -/

/-- Storing bytes writes memory alone. -/
theorem State.storeBytes_eq (s : State) (a : Word) (bs : List Byte) :
    s.storeBytes a bs = { s with mem := (s.storeBytes a bs).mem } := by
  induction bs generalizing s a with
  | nil => rfl
  | cons b bs ih => rw [State.storeBytes, ih]; rfl

/-- The address after `a` by one and then `k` more (R55). -/
theorem add_one_add_ofNat (a : Word) (k : Nat) : a + 1 + BitVec.ofNat 32 k = a + BitVec.ofNat 32 (k + 1) := by
  rw [BitVec.add_assoc, Nat.add_comm k 1, BitVec.ofNat_add]
  rfl

/-- Bytes outside the stored ones are kept. -/
theorem State.byte_storeBytes_ne (s : State) (a x : Word) (bs : List Byte)
    (h : ∀ k < bs.length, x ≠ a + BitVec.ofNat 32 k) : (s.storeBytes a bs).byte x = s.byte x := by
  induction bs generalizing s a with
  | nil => rfl
  | cons b bs ih =>
    have h0 : x ≠ a := by simpa using h 0 (by simp)
    rw [State.storeBytes, ih, State.byte_setByte_ne _ _ _ _ h0]
    intro k hk
    rw [add_one_add_ofNat]
    exact h (k + 1) (by simpa using hk)

/-- Stored bytes that do not run around the address space read back (R48). -/
theorem State.byte_storeBytes_get (s : State) (a : Word) (bs : List Byte) (hs : Memory.wf s.mem = true)
    (hlen : bs.length ≤ 2 ^ 32) (k : Nat) (hk : k < bs.length) :
    (s.storeBytes a bs).byte (a + BitVec.ofNat 32 k) = bs[k] := by
  induction bs generalizing s a k with
  | nil => cases hk
  | cons b bs ih =>
    rw [State.storeBytes]
    simp only [List.length_cons] at hlen hk
    cases k with
    | zero =>
      rw [State.byte_storeBytes_ne, List.getElem_cons_zero, BitVec.add_zero]
      · exact State.byte_setByte_same s a b hs
      · intro j hj he
        rw [add_one_add_ofNat, BitVec.add_right_inj] at he
        have hnat := congrArg BitVec.toNat he
        simp only [BitVec.toNat_ofNat] at hnat
        omega
    | succ k =>
      rw [← add_one_add_ofNat, List.getElem_cons_succ]
      exact ih (s.setByte a b) (a + 1) (State.setByte_wf s a b hs) (by omega) k (by omega)

/-- A step fetches the four bytes stored at `pc`. -/
theorem State.fetchBytes_storeBytes (s : State) (bs : List Byte) (hs : Memory.wf s.mem = true) (hlen : bs.length = 4) :
    (s.storeBytes s.pc bs).fetchBytes = bs := by
  have hpc : (s.storeBytes s.pc bs).pc = s.pc := by rw [State.storeBytes_eq]
  rw [State.fetchBytes, hpc]
  apply List.ext_getElem
  · simp [byteAddrs, hlen]
  · intro k hk hk'
    simpa [byteAddrs] using State.byte_storeBytes_get s s.pc bs hs (by omega) k hk'

/-! ### The placed instruction -/

theorem tableValue_toNat (w : Word) : tableValue 32 w.toNat = w := by
  rw [tableValue, Nat.mod_eq_of_lt w.isLt, BitVec.ofNat_toNat, BitVec.setWidth_eq]

theorem bytesOfValue_length (set : InstrSet) (w : Word) : (bytesOfValue set w).length = 4 := by
  cases set <;> rfl

/-- What the decoder takes from a word's bytes it takes from the word (R43). -/
theorem decode_of_decodeBytes {w : Word} {i : Instr} (h : decodeBytes .t32 (bytesOfValue .t32 w) = .ok i) :
    decode .t32 w = .ok i := by
  simp only [decodeBytes, bytesOfValue, valueOfBytes_t32] at h
  split at h
  · cases h
  · exact h

/-- A word is laid out in the instruction set of which it is a word (R62, R63). -/
theorem tableSet_encode (i : Instr) (h : i.encodable = true) : tableSet (encode i) = i.instrSet := by
  obtain ⟨hword, hbytes⟩ := encodedInstrDecodesToItself i h
  unfold tableSet
  cases hset : i.instrSet with
  | t32 =>
    rw [hset] at hbytes
    rw [hbytes]
  | a32 =>
    rw [hset, decode_eq_ok_iff, inSpace_iff] at hword
    obtain ⟨⟨ha32, -⟩, -⟩ := hword
    split
    · rename_i j hj
      obtain ⟨hspace, -⟩ := (decode_eq_ok_iff _ _ _).1 (decode_of_decodeBytes hj)
      obtain ⟨ht32, -⟩ := (inSpace_iff _ _).1 hspace
      rw [ha32] at ht32
      exact absurd ht32 (by decide)
    · rfl

/-- Placing an instruction stores its bytes at `pc` and sets `T` (R25, R43). -/
theorem State.withFetchWord_encode (i : Instr) (s : State) (h : i.encodable = true) :
    s.withFetchWord 32 (encode i).toNat =
      State.storeBytes { s with t := i.instrSet == .t32 } s.pc (bytesOfValue i.instrSet (encode i)) := by
  simp only [State.withFetchWord, State.placeTableWord, tableValue_toNat, tableSet_encode i h]

/-- Settles O53: the bytes at `pc` are those of the instruction's word, which decode to it. -/
theorem placedWordRunsAsThatInstr : Obligations.PlacedWordRunsAsThatInstr := by
  intro i s henc hwf hpc p
  let u : State := { s with t := i.instrSet == .t32 }
  have hp : p = u.storeBytes u.pc (bytesOfValue i.instrSet (encode i)) := State.withFetchWord_encode i s henc
  have hframe := u.storeBytes_eq u.pc (bytesOfValue i.instrSet (encode i))
  have hset : p.instrSet = i.instrSet := by
    have hpt : p.t = (i.instrSet == .t32) := by rw [hp, hframe]
    rw [State.instrSet, hpt]
    cases i.instrSet <;> rfl
  have haligned : p.pcAligned = true := by
    have hppc : p.pc = s.pc := by rw [hp, hframe]
    rw [State.pcAligned, hppc, beq_iff_eq]
    split <;> omega
  have hfetch : p.fetchBytes = bytesOfValue i.instrSet (encode i) :=
    hp ▸ u.fetchBytes_storeBytes _ hwf (bytesOfValue_length _ _)
  refine ⟨hset, hp ▸ u.storeBytes_wf _ _ hwf, fun a ha => ?_, step_of_decode_ok p i haligned ?_⟩
  · rw [hp, State.byte_storeBytes_ne u _ a _ (by rwa [bytesOfValue_length])]
    rfl
  · rw [hset, hfetch]
    exact (encodedInstrDecodesToItself i henc).2

end Sys2Proof.Machine
end
